-- ==== Sys2Proof/Word.lean ====
section
/-! DEFINITION. The words of the frame decoder: bytes, nibbles, the 112-bit frame, bit strings and requests. -/

namespace Sys2Proof

/-- A character code: one 8-bit byte (00_scope.md R15, 10_state.md R25). -/
abbrev Byte := BitVec 8

/-- The value of one hexadecimal digit (40_hex_and_frame.md R100). -/
abbrev Nibble := BitVec 4

/-- The 112-bit frame register `F` read as the integer `Fint`: frame bit 0 is its most significant bit
(00_scope.md R11, R12). -/
abbrev Frame := BitVec 112

/-- A bit string, first (most significant) bit first (40_hex_and_frame.md R102). -/
abbrev Bits := List Bool

/-- A request: the characters `IN_CHAR[0 .. IN_LEN-1]`, any finite list of bytes (10_state.md R25). -/
abbrev Request := List Byte

end Sys2Proof
end

