-- ==== Sys2Proof/Config.lean ====
section
/-! DEFINITION. What an instance of the block fixes when it is built (00_scope.md R10). -/

namespace Sys2Proof

/-- A bound on the length of a request: a natural number, at least 28, so that every frame can be presented (00_scope.md
R10, 92_eei_decisions.md D3). -/
abbrev MaxLen := { n : Nat // 28 ≤ n }

/-- The parameters of an instance that 00_scope.md R10 leaves open. No rule depends on `latency`, `cycleProtocol` or
`regMap`, so no definition of the model reads them (70_reset_and_hazards.md R236, 20_memory.md R58); their types are the
model's (log 5). -/
structure Config where
  /-- `IN_MAX_LEN`: the longest request the instance can be given; `none` is the reference model, which takes any
  finite byte list (10_state.md R25, 92_eei_decisions.md D3; log 4). -/
  inMaxLen : Option MaxLen
  /-- `LATENCY`: the time from request to response (92_eei_decisions.md D21). -/
  latency : Nat
  /-- `CYCLE_PROTOCOL`: the cycle-level handshake, by its name (92_eei_decisions.md D21). -/
  cycleProtocol : String
  /-- `REG_MAP`: the address of each port in an integrator's memory-mapped wrapper (92_eei_decisions.md D16). -/
  regMap : List (Nat × String)
  deriving DecidableEq, Repr

/-- `LATENCY` of the reference model: not known. -/
opaque Config.openLatency : Nat

/-- `CYCLE_PROTOCOL` of the reference model: not known. -/
opaque Config.openCycleProtocol : String

/-- `REG_MAP` of the reference model: not known. -/
opaque Config.openRegMap : List (Nat × String)

/-- The reference model of 10_state.md R25: no bound on the length of a request, every other parameter open. -/
def Config.reference : Config where
  inMaxLen := none
  latency := Config.openLatency
  cycleProtocol := Config.openCycleProtocol
  regMap := Config.openRegMap

/-- A hardware instance that accepts requests of up to `n` characters. -/
def Config.bounded (n : MaxLen) : Config := { Config.reference with inMaxLen := some n }

end Sys2Proof
end

