-- ==== Sys2Proof/Syntax.lean ====
section
/-! DEFINITION. The instructions of the frame decoder: one constructor per row of spec/opcode_table.json, each with the
operands that row names and, beside them, the frame bits that the row does not read. -/

namespace Sys2Proof

/-- The two decode errors that a request can raise (60_exceptions.md R200 to R202). `UnresolvedPositionDecode` is no
member: it never occurs (R203). -/
inductive DecodeError where
  /-- A character of the request is not a hexadecimal digit (R201). -/
  | invalidHexInput
  /-- The expanded length is not 112 bits (R202). -/
  | invalidFrameLength
  deriving DecidableEq, Repr

/-- The field values that the slicer produces in every transaction that loaded the frame (40_hex_and_frame.md R106). -/
structure Slices where
  /-- `FIELD(F, 8, 32)` -/
  icao : BitVec 24
  /-- `FIELD(F, 32, 37)` -/
  tc : BitVec 5
  /-- `FIELD(F, 37, 40)` -/
  cat : BitVec 3
  /-- `FIELD(F, 40, 88)` -/
  idp : BitVec 48
  /-- `FIELD(F, 40, 52)` -/
  altc : BitVec 12
  /-- `FIELD(F, 53, 63)` -/
  vraw : BitVec 10
  /-- `FIELD(F, 54, 71)` -/
  rlat : BitVec 17
  /-- `FIELD(F, 71, 88)` -/
  rlon : BitVec 17
  deriving DecidableEq, Repr

/-- The six disjoint bit groups that make up a frame, in order (30_encoding.md R72). The groups `x0`, `x88` are never
read, `low3` is the category of an IDENT frame and is not read in any other. -/
structure Layout where
  /-- bits [0,8) -/
  x0 : BitVec 8
  /-- bits [8,32) -/
  icao : BitVec 24
  /-- bits [32,37) -/
  tc : BitVec 5
  /-- bits [37,40) -/
  low3 : BitVec 3
  /-- bits [40,88) -/
  idp : BitVec 48
  /-- bits [88,112) -/
  x88 : BitVec 24
  deriving DecidableEq, Repr

/-- Operands of the rows with no payload beyond identification: NOPOS, RESERVED, TEST, EXT_SQUITTER. -/
structure PlainOps where
  /-- not read, bits [0,8) -/
  x0 : BitVec 8
  /-- ICAO address -/
  icao : BitVec 24
  /-- not read, bits [37,40) -/
  x37 : BitVec 3
  /-- identification payload -/
  idp : BitVec 48
  /-- not read, bits [88,112) -/
  x88 : BitVec 24
  deriving DecidableEq, Repr

/-- Operands of the IDENT rows. -/
structure IdentOps where
  /-- not read, bits [0,8) -/
  x0 : BitVec 8
  /-- ICAO address -/
  icao : BitVec 24
  /-- category -/
  cat : BitVec 3
  /-- identification payload -/
  idp : BitVec 48
  /-- not read, bits [88,112) -/
  x88 : BitVec 24
  deriving DecidableEq, Repr

/-- Operands of the SURFACE_POS rows. The position codes lie inside `idp` (20_memory.md R53). -/
structure SurfaceOps where
  /-- not read, bits [0,8) -/
  x0 : BitVec 8
  /-- ICAO address -/
  icao : BitVec 24
  /-- not read, bits [37,40) -/
  x37 : BitVec 3
  /-- identification payload -/
  idp : BitVec 48
  /-- latitude code -/
  rlat : BitVec 17
  /-- longitude code -/
  rlon : BitVec 17
  /-- not read, bits [88,112) -/
  x88 : BitVec 24
  deriving DecidableEq, Repr

/-- Operands of the AIRBORNE_POS rows. The altitude and position codes lie inside `idp` (20_memory.md R53). -/
structure AirborneOps where
  /-- not read, bits [0,8) -/
  x0 : BitVec 8
  /-- ICAO address -/
  icao : BitVec 24
  /-- not read, bits [37,40) -/
  x37 : BitVec 3
  /-- identification payload -/
  idp : BitVec 48
  /-- altitude code -/
  altc : BitVec 12
  /-- latitude code -/
  rlat : BitVec 17
  /-- longitude code -/
  rlon : BitVec 17
  /-- not read, bits [88,112) -/
  x88 : BitVec 24
  deriving DecidableEq, Repr

/-- Operands of the AIRBORNE_VEL row. The velocity lies inside `idp` (20_memory.md R53). -/
structure VelocityOps where
  /-- not read, bits [0,8) -/
  x0 : BitVec 8
  /-- ICAO address -/
  icao : BitVec 24
  /-- not read, bits [37,40) -/
  x37 : BitVec 3
  /-- identification payload -/
  idp : BitVec 48
  /-- velocity -/
  vraw : BitVec 10
  /-- not read, bits [88,112) -/
  x88 : BitVec 24
  deriving DecidableEq, Repr

/-- The instructions: one frame kind per type code (30_encoding.md R75, R76). -/
inductive Instr where
  /-- row TC0.NOPOS -/
  | tc0Nopos (o : PlainOps)
  /-- row TC1.IDENT -/
  | tc1Ident (o : IdentOps)
  /-- row TC2.IDENT -/
  | tc2Ident (o : IdentOps)
  /-- row TC3.IDENT -/
  | tc3Ident (o : IdentOps)
  /-- row TC4.IDENT -/
  | tc4Ident (o : IdentOps)
  /-- row TC5.SURFACE_POS -/
  | tc5SurfacePos (o : SurfaceOps)
  /-- row TC6.SURFACE_POS -/
  | tc6SurfacePos (o : SurfaceOps)
  /-- row TC7.SURFACE_POS -/
  | tc7SurfacePos (o : SurfaceOps)
  /-- row TC8.SURFACE_POS -/
  | tc8SurfacePos (o : SurfaceOps)
  /-- row TC9.AIRBORNE_POS -/
  | tc9AirbornePos (o : AirborneOps)
  /-- row TC10.AIRBORNE_POS -/
  | tc10AirbornePos (o : AirborneOps)
  /-- row TC11.AIRBORNE_POS -/
  | tc11AirbornePos (o : AirborneOps)
  /-- row TC12.AIRBORNE_POS -/
  | tc12AirbornePos (o : AirborneOps)
  /-- row TC13.AIRBORNE_POS -/
  | tc13AirbornePos (o : AirborneOps)
  /-- row TC14.AIRBORNE_POS -/
  | tc14AirbornePos (o : AirborneOps)
  /-- row TC15.AIRBORNE_POS -/
  | tc15AirbornePos (o : AirborneOps)
  /-- row TC16.AIRBORNE_POS -/
  | tc16AirbornePos (o : AirborneOps)
  /-- row TC17.AIRBORNE_POS -/
  | tc17AirbornePos (o : AirborneOps)
  /-- row TC18.AIRBORNE_POS -/
  | tc18AirbornePos (o : AirborneOps)
  /-- row TC19.AIRBORNE_VEL -/
  | tc19AirborneVel (o : VelocityOps)
  /-- row TC20.RESERVED -/
  | tc20Reserved (o : PlainOps)
  /-- row TC21.RESERVED -/
  | tc21Reserved (o : PlainOps)
  /-- row TC22.RESERVED -/
  | tc22Reserved (o : PlainOps)
  /-- row TC23.TEST -/
  | tc23Test (o : PlainOps)
  /-- row TC24.TEST -/
  | tc24Test (o : PlainOps)
  /-- row TC25.TEST -/
  | tc25Test (o : PlainOps)
  /-- row TC26.TEST -/
  | tc26Test (o : PlainOps)
  /-- row TC27.TEST -/
  | tc27Test (o : PlainOps)
  /-- row TC28.EXT_SQUITTER -/
  | tc28ExtSquitter (o : PlainOps)
  /-- row TC29.EXT_SQUITTER -/
  | tc29ExtSquitter (o : PlainOps)
  /-- row TC30.EXT_SQUITTER -/
  | tc30ExtSquitter (o : PlainOps)
  /-- row TC31.EXT_SQUITTER -/
  | tc31ExtSquitter (o : PlainOps)
  deriving DecidableEq, Repr

end Sys2Proof
end

