-- ==== Sys2Proof/WellFormed.lean ====
section
/-! DEFINITION. Which instructions a frame can spell: operands that share frame bits must agree on them
(20_memory.md R53). -/

namespace Sys2Proof

/-- Frame bits [54,71) and [71,88), read inside the identification payload [40,88), are the two position codes. -/
def SurfaceOps.wf (o : SurfaceOps) : Bool :=
  o.rlat == o.idp.extractLsb' 17 17 && o.rlon == o.idp.extractLsb' 0 17

/-- Frame bits [40,52), [54,71) and [71,88), read inside the identification payload [40,88), are the altitude code and
the two position codes. -/
def AirborneOps.wf (o : AirborneOps) : Bool :=
  o.altc == o.idp.extractLsb' 36 12 && o.rlat == o.idp.extractLsb' 17 17 && o.rlon == o.idp.extractLsb' 0 17

/-- Frame bits [53,63), read inside the identification payload [40,88), are the velocity. -/
def VelocityOps.wf (o : VelocityOps) : Bool :=
  o.vraw == o.idp.extractLsb' 25 10

/-- The instruction is one that some frame spells. The rows with no overlapping operands have nothing to check. -/
def Instr.wf : Instr → Bool
  | .tc0Nopos _ => true
  | .tc1Ident _ => true
  | .tc2Ident _ => true
  | .tc3Ident _ => true
  | .tc4Ident _ => true
  | .tc5SurfacePos o => o.wf
  | .tc6SurfacePos o => o.wf
  | .tc7SurfacePos o => o.wf
  | .tc8SurfacePos o => o.wf
  | .tc9AirbornePos o => o.wf
  | .tc10AirbornePos o => o.wf
  | .tc11AirbornePos o => o.wf
  | .tc12AirbornePos o => o.wf
  | .tc13AirbornePos o => o.wf
  | .tc14AirbornePos o => o.wf
  | .tc15AirbornePos o => o.wf
  | .tc16AirbornePos o => o.wf
  | .tc17AirbornePos o => o.wf
  | .tc18AirbornePos o => o.wf
  | .tc19AirborneVel o => o.wf
  | .tc20Reserved _ => true
  | .tc21Reserved _ => true
  | .tc22Reserved _ => true
  | .tc23Test _ => true
  | .tc24Test _ => true
  | .tc25Test _ => true
  | .tc26Test _ => true
  | .tc27Test _ => true
  | .tc28ExtSquitter _ => true
  | .tc29ExtSquitter _ => true
  | .tc30ExtSquitter _ => true
  | .tc31ExtSquitter _ => true

end Sys2Proof
end

