-- ==== Sys2Proof/Decode.lean ====
section
/-! DEFINITION. The front end of the block: the hex-digit table, the character check, hex-to-bit expansion, the length
check, the frame register, the bit-field slicer and the opcode map; after them the encoder. -/

namespace Sys2Proof

/-! ## From characters to the frame -/

/-- The bytes of an ASCII string (00_scope.md R15). -/
def ascii (s : String) : List Byte := s.toList.map fun c => BitVec.ofNat 8 c.toNat

/-- `ROM_HEXVAL` (40_hex_and_frame.md R100); `none` is INVALID. -/
def romHexVal (c : Byte) : Option Nibble :=
  let n := c.toNat
  if 0x30 ≤ n ∧ n ≤ 0x39 then some (BitVec.ofNat 4 (n - 0x30))
  else if 0x41 ≤ n ∧ n ≤ 0x46 then some (BitVec.ofNat 4 (n - 0x41 + 10))
  else if 0x61 ≤ n ∧ n ≤ 0x66 then some (BitVec.ofNat 4 (n - 0x61 + 10))
  else none

/-- HEX_CHECK with the digit values it found (40_hex_and_frame.md R101): `none` when some character is not a digit. -/
def hexDigits : Request → Option (List Nibble)
  | [] => some []
  | c :: cs =>
    match romHexVal c, hexDigits cs with
    | some d, some ds => some (d :: ds)
    | _, _ => none

/-- One digit's four bits, most significant first (40_hex_and_frame.md R102). -/
def digitBits (d : Nibble) : Bits := [d.getMsbD 0, d.getMsbD 1, d.getMsbD 2, d.getMsbD 3]

/-- HEX2BITS (40_hex_and_frame.md R102): `BITS`, for a request that passes HEX_CHECK. -/
def hex2bits (r : Request) : Option Bits := (hexDigits r).map fun ds => ds.flatMap digitBits

/-- The unsigned value of a bit string, first bit most significant. -/
def bitsToNat (bs : Bits) : Nat := bs.foldl (fun n b => 2 * n + b.toNat) 0

/-- FRAME_LOAD (40_hex_and_frame.md R104), for a bit string of 112 bits. -/
def frameLoad (bs : Bits) : Frame := BitVec.ofNat 112 (bitsToNat bs)

/-- HEX_CHECK, HEX2BITS, LENGTH_CHECK and FRAME_LOAD in the order of 42_type_code_dispatch.md R170: the character check
comes before the length check (60_exceptions.md R204). -/
def loadFrame (r : Request) : Except DecodeError Frame :=
  match hex2bits r with
  | none => .error .invalidHexInput
  | some bs => if bs.length = 112 then .ok (frameLoad bs) else .error .invalidFrameLength

/-! ## The slicer -/

/-- `FIELD(F, a, b)` (00_scope.md R12, 40_hex_and_frame.md R105). -/
def field (F : Frame) (a b : Nat) : BitVec (b - a) := F.extractLsb' (112 - b) (b - a)

/-- The slices of 40_hex_and_frame.md R106. -/
def slice (F : Frame) : Slices where
  icao := field F 8 32
  tc := field F 32 37
  cat := field F 37 40
  idp := field F 40 88
  altc := field F 40 52
  vraw := field F 53 63
  rlat := field F 54 71
  rlon := field F 71 88

/-! ## The opcode map -/

/-- Operands of a row that carries no payload beyond identification. -/
def plainOps (F : Frame) : PlainOps where
  x0 := field F 0 8
  icao := (slice F).icao
  x37 := field F 37 40
  idp := (slice F).idp
  x88 := field F 88 112

/-- Operands of an IDENT row. -/
def identOps (F : Frame) : IdentOps where
  x0 := field F 0 8
  icao := (slice F).icao
  cat := (slice F).cat
  idp := (slice F).idp
  x88 := field F 88 112

/-- Operands of a SURFACE_POS row. -/
def surfaceOps (F : Frame) : SurfaceOps where
  x0 := field F 0 8
  icao := (slice F).icao
  x37 := field F 37 40
  idp := (slice F).idp
  rlat := (slice F).rlat
  rlon := (slice F).rlon
  x88 := field F 88 112

/-- Operands of an AIRBORNE_POS row. -/
def airborneOps (F : Frame) : AirborneOps where
  x0 := field F 0 8
  icao := (slice F).icao
  x37 := field F 37 40
  idp := (slice F).idp
  altc := (slice F).altc
  rlat := (slice F).rlat
  rlon := (slice F).rlon
  x88 := field F 88 112

/-- Operands of the AIRBORNE_VEL row. -/
def velocityOps (F : Frame) : VelocityOps where
  x0 := field F 0 8
  icao := (slice F).icao
  x37 := field F 37 40
  idp := (slice F).idp
  vraw := (slice F).vraw
  x88 := field F 88 112

/-- The opcode map (30_encoding.md R75): the type code alone selects the row, for all 32 values; the last arm is 31, the one
value of the 5-bit field that is left. -/
def rowOf (tc : BitVec 5) (F : Frame) : Instr :=
  match tc with
  | 0 => .tc0Nopos (plainOps F)
  | 1 => .tc1Ident (identOps F)
  | 2 => .tc2Ident (identOps F)
  | 3 => .tc3Ident (identOps F)
  | 4 => .tc4Ident (identOps F)
  | 5 => .tc5SurfacePos (surfaceOps F)
  | 6 => .tc6SurfacePos (surfaceOps F)
  | 7 => .tc7SurfacePos (surfaceOps F)
  | 8 => .tc8SurfacePos (surfaceOps F)
  | 9 => .tc9AirbornePos (airborneOps F)
  | 10 => .tc10AirbornePos (airborneOps F)
  | 11 => .tc11AirbornePos (airborneOps F)
  | 12 => .tc12AirbornePos (airborneOps F)
  | 13 => .tc13AirbornePos (airborneOps F)
  | 14 => .tc14AirbornePos (airborneOps F)
  | 15 => .tc15AirbornePos (airborneOps F)
  | 16 => .tc16AirbornePos (airborneOps F)
  | 17 => .tc17AirbornePos (airborneOps F)
  | 18 => .tc18AirbornePos (airborneOps F)
  | 19 => .tc19AirborneVel (velocityOps F)
  | 20 => .tc20Reserved (plainOps F)
  | 21 => .tc21Reserved (plainOps F)
  | 22 => .tc22Reserved (plainOps F)
  | 23 => .tc23Test (plainOps F)
  | 24 => .tc24Test (plainOps F)
  | 25 => .tc25Test (plainOps F)
  | 26 => .tc26Test (plainOps F)
  | 27 => .tc27Test (plainOps F)
  | 28 => .tc28ExtSquitter (plainOps F)
  | 29 => .tc29ExtSquitter (plainOps F)
  | 30 => .tc30ExtSquitter (plainOps F)
  | _ => .tc31ExtSquitter (plainOps F)

/-- The instruction of a loaded frame. -/
def decodeFrame (F : Frame) : Instr := rowOf (slice F).tc F

/-- The decoder: any request, of any length and any bytes, is an instruction or is rejected by name
(30_encoding.md R78). -/
def decode (r : Request) : Except DecodeError Instr := (loadFrame r).map decodeFrame

/-! ## The encoder -/

/-- `ROM_HEXDIGIT` (40_hex_and_frame.md R108). -/
def romHexDigit (d : Nibble) : Byte :=
  if d.toNat ≤ 9 then BitVec.ofNat 8 (0x30 + d.toNat) else BitVec.ofNat 8 (0x41 + (d.toNat - 10))

/-- BITS2HEX (40_hex_and_frame.md R108), for a bit string of length `4m`. -/
def bits2hex : Bits → List Byte
  | b0 :: b1 :: b2 :: b3 :: rest => romHexDigit (BitVec.ofNat 4 (bitsToNat [b0, b1, b2, b3])) :: bits2hex rest
  | _ => []

/-- The bits of a frame, bit 0 first (00_scope.md R11). -/
def frameBits (F : Frame) : Bits := (List.range 112).map F.getMsbD

/-- A row with no payload, laid out in the frame (30_encoding.md, section 3). -/
def PlainOps.layout (tc : BitVec 5) (o : PlainOps) : Layout := { o with tc := tc, low3 := o.x37 }

/-- An IDENT row, laid out in the frame: the category stands after the type code. -/
def IdentOps.layout (tc : BitVec 5) (o : IdentOps) : Layout := { o with tc := tc, low3 := o.cat }

/-- A SURFACE_POS row, laid out in the frame: the position codes are bits of `idp`. -/
def SurfaceOps.layout (tc : BitVec 5) (o : SurfaceOps) : Layout := { o with tc := tc, low3 := o.x37 }

/-- An AIRBORNE_POS row, laid out in the frame: the altitude and position codes are bits of `idp`. -/
def AirborneOps.layout (tc : BitVec 5) (o : AirborneOps) : Layout := { o with tc := tc, low3 := o.x37 }

/-- The AIRBORNE_VEL row, laid out in the frame: the velocity is bits of `idp`. -/
def VelocityOps.layout (tc : BitVec 5) (o : VelocityOps) : Layout := { o with tc := tc, low3 := o.x37 }

/-- The bit groups of an instruction's frame: the type code of its row (30_encoding.md R75) beside its operands. -/
def Instr.layout : Instr → Layout
  | .tc0Nopos o => o.layout 0
  | .tc1Ident o => o.layout 1
  | .tc2Ident o => o.layout 2
  | .tc3Ident o => o.layout 3
  | .tc4Ident o => o.layout 4
  | .tc5SurfacePos o => o.layout 5
  | .tc6SurfacePos o => o.layout 6
  | .tc7SurfacePos o => o.layout 7
  | .tc8SurfacePos o => o.layout 8
  | .tc9AirbornePos o => o.layout 9
  | .tc10AirbornePos o => o.layout 10
  | .tc11AirbornePos o => o.layout 11
  | .tc12AirbornePos o => o.layout 12
  | .tc13AirbornePos o => o.layout 13
  | .tc14AirbornePos o => o.layout 14
  | .tc15AirbornePos o => o.layout 15
  | .tc16AirbornePos o => o.layout 16
  | .tc17AirbornePos o => o.layout 17
  | .tc18AirbornePos o => o.layout 18
  | .tc19AirborneVel o => o.layout 19
  | .tc20Reserved o => o.layout 20
  | .tc21Reserved o => o.layout 21
  | .tc22Reserved o => o.layout 22
  | .tc23Test o => o.layout 23
  | .tc24Test o => o.layout 24
  | .tc25Test o => o.layout 25
  | .tc26Test o => o.layout 26
  | .tc27Test o => o.layout 27
  | .tc28ExtSquitter o => o.layout 28
  | .tc29ExtSquitter o => o.layout 29
  | .tc30ExtSquitter o => o.layout 30
  | .tc31ExtSquitter o => o.layout 31

/-- The frame made of six bit groups (30_encoding.md R72). -/
def Layout.pack (l : Layout) : Frame := l.x0 ++ l.icao ++ l.tc ++ l.low3 ++ l.idp ++ l.x88

/-- The frame of an instruction. -/
def encodeFrame (i : Instr) : Frame := i.layout.pack

/-- The canonical request of a frame: 28 uppercase hex digits (30_encoding.md R79). -/
def frameRequest (F : Frame) : Request := bits2hex (frameBits F)

/-- The encoder: the canonical request that spells an instruction. -/
def encode (i : Instr) : Request := frameRequest (encodeFrame i)

/-! ## The opcode table's numbering -/

/-- The request that spells a word of spec/opcode_table.json: the table's match is the frame as one 112-bit number, its
last hex digit least significant (30_encoding.md R76; log 15). Bits above `nbits` are zero. -/
def tableRequest (nbits w : Nat) : Request := frameRequest (BitVec.ofNat 112 (w % 2 ^ nbits))

/-- What the decoder reads from a word of spec/opcode_table.json. -/
def decodeTableWord (nbits w : Nat) : Option Instr := (decode (tableRequest nbits w)).toOption

end Sys2Proof
end

