-- ==== Sys2Proof/Machine/State.lean ====
section
/-! DEFINITION. The state of the frame decoder, its records and responses, what the host sends it, and the reasons a step
stops. -/

namespace Sys2Proof.Machine

/-- The record kinds (10_state.md R29). No frame gives `unknown` (42_type_code_dispatch.md R182; log 13). -/
inductive RecordKind where
  | nopos
  | ident
  | surfacePos
  | airbornePos
  | airborneVel
  | reserved
  | test
  | extSquitter
  | unknown
  deriving DecidableEq, Repr

/-- The header and the identification string that every record carries (10_state.md R27, 42_type_code_dispatch.md
R172). `idChars` holds the `idLen` bytes of the string and no more (log 12). -/
structure Header where
  /-- ICAO address -/
  icao : BitVec 24
  /-- the ICAO address as six hex digits -/
  icaoHex : List Byte
  /-- type code -/
  tc : BitVec 5
  /-- record kind -/
  kind : RecordKind
  /-- the kind's description -/
  description : List Byte
  /-- length of the identification string, 0 to 8 -/
  idLen : BitVec 4
  /-- the trimmed identification string -/
  idChars : List Byte
  deriving DecidableEq, Repr

/-- The two position fields, in degrees times 2^17, two's complement (10_state.md R27). -/
structure Position where
  /-- latitude -/
  latQ17 : BitVec 25
  /-- longitude -/
  lonQ17 : BitVec 26
  deriving DecidableEq, Repr

/-- A record: a tagged union with exactly the payload its kind carries (10_state.md R27, 42_type_code_dispatch.md
R184). -/
inductive Record where
  | nopos (h : Header)
  | ident (h : Header) (cat : BitVec 3)
  | surfacePos (h : Header) (pos : Position)
  | airbornePos (h : Header) (altFt : BitVec 17) (pos : Position)
  | airborneVel (h : Header) (velKt : BitVec 10)
  | reserved (h : Header)
  | test (h : Header)
  | extSquitter (h : Header)
  | unknown (h : Header)
  deriving DecidableEq, Repr

/-- A response (10_state.md R26): a record with STATUS 0, or an error, which carries no record and no part of one. -/
inductive Response where
  | ok (rec : Record)
  | error (e : DecodeError)
  deriving DecidableEq, Repr

/-- The fields of a record that a host can read (10_state.md R27). -/
inductive RecField where
  | icao
  | icaoHex
  | tc
  | kind
  | description
  | idLen
  | idChars
  | cat
  | latQ17
  | lonQ17
  | altFt
  | velKt
  deriving DecidableEq, Repr

/-- The value a read of a record field gives. -/
inductive FieldValue where
  | unsigned (n : Nat)
  | signed (z : Int)
  | chars (bs : List Byte)
  deriving DecidableEq, Repr

/-- What the host does to the block (70_reset_and_hazards.md R238). -/
inductive HostEvent where
  /-- A request, held stable until taken: one atomic transaction (20_memory.md R56). -/
  | request (r : Request)
  /-- A request that is taken now, whole, and answered by a later step, so that a reset or a further request can arrive
  in between (70_reset_and_hazards.md R231, R237; log 2). -/
  | take (r : Request)
  /-- The host waits until the oldest request in progress has its response (log 2). -/
  | wait
  /-- A request whose characters were `before` when it was presented and `after` when it was taken
  (70_reset_and_hazards.md R233; log 11). -/
  | requestChanged (before after : Request)
  /-- The host reads a field of the record that is on the response port now, whatever is in progress (R234, R238; log 8). -/
  | read (f : RecField)
  /-- Reset (R230, R231; log 3). -/
  | reset
  deriving DecidableEq, Repr

/-- Why a step stops with a fault. Only the host's reads raise one: no request ever does (60_exceptions.md R200, R206). -/
inductive Fault where
  /-- A read of a record field of an error response: 93_implementation_defined.md I9. Safe. -/
  | readOfErrorResponse
  /-- A read of a field that the record's kind does not carry: 93_implementation_defined.md I8, D7. Safe. -/
  | readOfAbsentField
  deriving DecidableEq, Repr

/-- Why a step is refused. -/
inductive Refusal where
  /-- `exec` has no meaning for the instruction. No arm of this model raises it. Safe. -/
  | notModelled (mnemonic : String)
  /-- A request changed while it was being taken: 70_reset_and_hazards.md R233, I11 (log 11). Raised by the step that
  would take it. Safe. -/
  | requestChangedWhileTaken
  /-- A request longer than the instance's `IN_MAX_LEN`: I13 (log 4). Raised by the step that would take it, on an
  instance with a bound only. Safe. -/
  | requestTooLong
  deriving DecidableEq, Repr

/-- The state of the block and of the two ends of its channel (INVENTORY.md, State; log 1). -/
structure State where
  /-- What the host has presented and the block has not taken, oldest first (10_state.md R25, 70_reset_and_hazards.md
  R239). -/
  inputs : List HostEvent
  /-- The requests that have been taken and not answered, oldest first (10_state.md R33, 70_reset_and_hazards.md R231); more
  than one where the instance overlaps requests (R237). -/
  inProgress : List Request
  /-- `BITS`, inside a transaction (10_state.md R30; log 17). -/
  bits : Option Bits
  /-- The frame register `F`, inside a transaction (10_state.md R30; log 17). -/
  frame : Option Frame
  /-- The field values sliced from `F`, inside a transaction (10_state.md R30; log 17). -/
  fields : Option Slices
  /-- The response port: the response presented to the host (10_state.md R26, R33; log 9). -/
  presented : Option Response
  /-- The responses given so far, oldest first (20_memory.md R59, 70_reset_and_hazards.md R239). -/
  given : List Response
  deriving DecidableEq, Repr

/-- The state after reset (10_state.md R33): nothing held, nothing in progress, nothing presented; and nothing presented
by the host, nothing given yet. -/
def State.reset : State where
  inputs := []
  inProgress := []
  bits := none
  frame := none
  fields := none
  presented := none
  given := []

end Sys2Proof.Machine
end

