-- ==== Sys2Proof/Machine/Flags.lean ====
section
/-! DEFINITION. The flag-like outputs of the block, STATUS and the record kind (10_state.md R32), with their codes, and the
flat port that carries every field at once. -/

namespace Sys2Proof.Machine

/-- STATUS of an error (10_state.md R26, 60_exceptions.md R200). -/
def errorStatus : DecodeError → BitVec 2
  | .invalidHexInput => 1
  | .invalidFrameLength => 2

/-- STATUS of a response (10_state.md R26): 0 is OK. -/
def Response.status : Response → BitVec 2
  | .ok _ => 0
  | .error e => errorStatus e

/-- The 4-bit code of a record kind (10_state.md R29). -/
def RecordKind.code : RecordKind → BitVec 4
  | .nopos => 0
  | .ident => 1
  | .surfacePos => 2
  | .airbornePos => 3
  | .airborneVel => 4
  | .reserved => 5
  | .test => 6
  | .extSquitter => 7
  | .unknown => 8

/-- The header of a record. -/
def Record.header : Record → Header
  | .nopos h => h
  | .ident h _ => h
  | .surfacePos h _ => h
  | .airbornePos h _ _ => h
  | .airborneVel h _ => h
  | .reserved h => h
  | .test h => h
  | .extSquitter h => h
  | .unknown h => h

/-- The kind that a record's variant stands for (10_state.md R27). -/
def Record.variant : Record → RecordKind
  | .nopos _ => .nopos
  | .ident _ _ => .ident
  | .surfacePos _ _ => .surfacePos
  | .airbornePos _ _ _ => .airbornePos
  | .airborneVel _ _ => .airborneVel
  | .reserved _ => .reserved
  | .test _ => .test
  | .extSquitter _ => .extSquitter
  | .unknown _ => .unknown

/-- The category field, where the kind carries it (10_state.md R27). -/
def Record.cat? : Record → Option (BitVec 3)
  | .ident _ c => some c
  | .nopos _ | .surfacePos _ _ | .airbornePos _ _ _ | .airborneVel _ _ | .reserved _ | .test _ | .extSquitter _
  | .unknown _ => none

/-- The position fields, where the kind carries them (10_state.md R27). -/
def Record.pos? : Record → Option Position
  | .surfacePos _ p => some p
  | .airbornePos _ _ p => some p
  | .nopos _ | .ident _ _ | .airborneVel _ _ | .reserved _ | .test _ | .extSquitter _ | .unknown _ => none

/-- The altitude field, where the kind carries it (10_state.md R27). -/
def Record.altFt? : Record → Option (BitVec 17)
  | .airbornePos _ a _ => some a
  | .nopos _ | .ident _ _ | .surfacePos _ _ | .airborneVel _ _ | .reserved _ | .test _ | .extSquitter _
  | .unknown _ => none

/-- The velocity field, where the kind carries it (10_state.md R27). -/
def Record.velKt? : Record → Option (BitVec 10)
  | .airborneVel _ v => some v
  | .nopos _ | .ident _ _ | .surfacePos _ _ | .airbornePos _ _ _ | .reserved _ | .test _ | .extSquitter _
  | .unknown _ => none

/-- A field of the typed record; `none` where the variant lacks it (10_state.md R27). -/
def Record.field? (rec : Record) : RecField → Option FieldValue
  | .icao => some (.unsigned rec.header.icao.toNat)
  | .icaoHex => some (.chars rec.header.icaoHex)
  | .tc => some (.unsigned rec.header.tc.toNat)
  | .kind => some (.unsigned rec.header.kind.code.toNat)
  | .description => some (.chars rec.header.description)
  | .idLen => some (.unsigned rec.header.idLen.toNat)
  | .idChars => some (.chars rec.header.idChars)
  | .cat => rec.cat?.map fun c => .unsigned c.toNat
  | .latQ17 => rec.pos?.map fun p => .signed p.latQ17.toInt
  | .lonQ17 => rec.pos?.map fun p => .signed p.lonQ17.toInt
  | .altFt => rec.altFt?.map fun a => .unsigned a.toNat
  | .velKt => rec.velKt?.map fun v => .unsigned v.toNat

/-- The flat hardware port, which carries every field of every variant at once (10_state.md R28). -/
structure FlatPort where
  status : BitVec 2
  icao : BitVec 24
  icaoHex : List Byte
  tc : BitVec 5
  kind : BitVec 4
  description : List Byte
  idLen : BitVec 4
  idChars : List Byte
  cat : BitVec 3
  latQ17 : BitVec 25
  lonQ17 : BitVec 26
  altFt : BitVec 17
  velKt : BitVec 10
  deriving DecidableEq, Repr

/-- One field of the flat port. -/
def FlatPort.field (p : FlatPort) : RecField → FieldValue
  | .icao => .unsigned p.icao.toNat
  | .icaoHex => .chars p.icaoHex
  | .tc => .unsigned p.tc.toNat
  | .kind => .unsigned p.kind.toNat
  | .description => .chars p.description
  | .idLen => .unsigned p.idLen.toNat
  | .idChars => .chars p.idChars
  | .cat => .unsigned p.cat.toNat
  | .latQ17 => .signed p.latQ17.toInt
  | .lonQ17 => .signed p.lonQ17.toInt
  | .altFt => .unsigned p.altFt.toNat
  | .velKt => .unsigned p.velKt.toNat

/-- A string on a port of `n` bytes: left-justified, the rest 0x00 (10_state.md R28, 41_field_decoders.md R135). -/
def padBytes (n : Nat) (bs : List Byte) : List Byte := (bs ++ List.replicate n 0).take n

/-- Every record field driven to zero, with a STATUS (10_state.md R28). -/
def FlatPort.zeros (status : BitVec 2) : FlatPort where
  status := status
  icao := 0
  icaoHex := padBytes 6 []
  tc := 0
  kind := 0
  description := padBytes 29 []
  idLen := 0
  idChars := padBytes 8 []
  cat := 0
  latQ17 := 0
  lonQ17 := 0
  altFt := 0
  velKt := 0

/-- What the flat port shows of a record: a field the variant lacks is zero (10_state.md R28). -/
def Record.flat (rec : Record) : FlatPort where
  status := 0
  icao := rec.header.icao
  icaoHex := padBytes 6 rec.header.icaoHex
  tc := rec.header.tc
  kind := rec.header.kind.code
  description := padBytes 29 rec.header.description
  idLen := rec.header.idLen
  idChars := padBytes 8 rec.header.idChars
  cat := rec.cat?.getD 0
  latQ17 := (rec.pos?.map Position.latQ17).getD 0
  lonQ17 := (rec.pos?.map Position.lonQ17).getD 0
  altFt := rec.altFt?.getD 0
  velKt := rec.velKt?.getD 0

/-- What the flat port shows of a response. -/
def Response.flat : Response → FlatPort
  | .ok rec => rec.flat
  | .error e => FlatPort.zeros (errorStatus e)

/-- The flat port: all fields zero until the first response (10_state.md R33). -/
def State.flatPort (s : State) : FlatPort :=
  match s.presented with
  | none => FlatPort.zeros 0
  | some resp => resp.flat

end Sys2Proof.Machine
end

