-- ==== Sys2Proof/Machine/Operands.lean ====
section
/-! DEFINITION. The field decoders (41_field_decoders.md), the dispatch of a type code to its kind and the header of a record
(42_type_code_dispatch.md). Each decoder has a value for every input. -/

namespace Sys2Proof.Machine

/-! ## ICAO address and category -/

/-- ICAO_DECODE's rendering (41_field_decoders.md R130): six uppercase hex digits, leading zeros kept. -/
def icaoHex (icao : BitVec 24) : List Byte :=
  bits2hex ((List.range 24).map icao.getMsbD)

/-- CAT_DECODE (41_field_decoders.md R131): the category as it stands. -/
def catDecode (cat : BitVec 3) : BitVec 3 := cat

/-! ## Identification string -/

/-- The blank, `' '`. -/
def blank : Byte := 0x20

/-- `SENTINEL`, `'?'` (00_scope.md R10, 92_eei_decisions.md D10; log 6). -/
def sentinel : Byte := 0x3F

/-- `ROM_IDCHAR` (41_field_decoders.md R132). -/
def romIdChar (k : BitVec 6) : Byte :=
  let n := k.toNat
  if n = 0 then blank
  else if n ≤ 26 then BitVec.ofNat 8 (0x40 + n)
  else if n ≤ 32 then blank
  else sentinel

/-- The eight 6-bit groups of the identification payload, `g[0]` from its most significant bits
(41_field_decoders.md R133). -/
def idGroups (idp : BitVec 48) : List (BitVec 6) :=
  (List.range 8).map fun k => idp.extractLsb' (42 - 6 * k) 6

/-- The eight characters before trimming (41_field_decoders.md R133). -/
def idRaw (idp : BitVec 48) : List Byte := (idGroups idp).map romIdChar

/-- `trim` (41_field_decoders.md R134): leading and trailing blanks go, inner blanks stay. -/
def trim (bs : List Byte) : List Byte :=
  ((bs.dropWhile (· == blank)).reverse.dropWhile (· == blank)).reverse

/-- ID_DECODE (41_field_decoders.md R133). -/
def idDecode (idp : BitVec 48) : List Byte := trim (idRaw idp)

/-! ## Position, altitude, velocity -/

/-- POS_DECODE (41_field_decoders.md R136), the one routine of both position kinds (R139, R140). -/
def posDecode (rlat rlon : BitVec 17) : Position where
  latQ17 := BitVec.ofInt 25 (180 * (rlat.toNat : Int) - 11796480)
  lonQ17 := BitVec.ofInt 26 (360 * (rlon.toNat : Int) - 23592960)

/-- ALT_DECODE (41_field_decoders.md R142): a negative altitude is clamped to zero. -/
def altDecode (altc : BitVec 12) : BitVec 17 :=
  BitVec.ofInt 17 (max 0 (25 * (altc.toNat : Int) - 1000))

/-- VEL_DECODE (41_field_decoders.md R144): the field is the speed in knots. -/
def velDecode (vraw : BitVec 10) : BitVec 10 := vraw

/-! ## Dispatch and header -/

/-- DISPATCH (42_type_code_dispatch.md R171). -/
def dispatch (tc : BitVec 5) : RecordKind :=
  let n := tc.toNat
  if n = 0 then .nopos
  else if n ≤ 4 then .ident
  else if n ≤ 8 then .surfacePos
  else if n ≤ 18 then .airbornePos
  else if n = 19 then .airborneVel
  else if n ≤ 22 then .reserved
  else if n ≤ 27 then .test
  else .extSquitter

/-- `ROM_DESC` (42_type_code_dispatch.md R173). -/
def romDesc : RecordKind → List Byte
  | .nopos => ascii "TCAS/no-position (degenerate)"
  | .ident => ascii "Identification"
  | .surfacePos => ascii "Surface Position"
  | .airbornePos => ascii "Airborne Position w/ Altitude"
  | .airborneVel => ascii "Airborne Velocity"
  | .reserved => ascii "Reserved"
  | .test => ascii "Test Message"
  | .extSquitter => ascii "Extended Squitter"
  | .unknown => ascii "Unknown"

/-- HEADER(kind) (42_type_code_dispatch.md R172). -/
def header (kind : RecordKind) (tc : BitVec 5) (icao : BitVec 24) (idp : BitVec 48) : Header where
  icao := icao
  icaoHex := icaoHex icao
  tc := tc
  kind := kind
  description := romDesc kind
  idLen := BitVec.ofNat 4 (idDecode idp).length
  idChars := idDecode idp

end Sys2Proof.Machine
end

