-- ==== Sys2Proof/Machine/Ops.lean ====
section
/-! DEFINITION. What a transaction does to the state: taking a request, loading the working values, responding, raising an
error, reset, and the host's read of a record field. -/

namespace Sys2Proof.Machine

/-- The requests an instance can be given (10_state.md R25, 92_eei_decisions.md D3; log 4). -/
def admits (c : Config) (r : Request) : Bool :=
  match c.inMaxLen with
  | none => true
  | some n => r.length ≤ n.val

/-- The block takes the whole request at once (20_memory.md R56), behind those it has not answered yet; `rest` is what the
host has presented after it. -/
def takeRequest (r : Request) (rest : List HostEvent) (s : State) : State :=
  { s with inputs := rest, inProgress := s.inProgress ++ [r] }

/-- The working values of a transaction (10_state.md R30): `BITS` once the characters are checked, `F` and the fields
once the length is checked. -/
def loadWorking (r : Request) (s : State) : State :=
  { s with
    bits := hex2bits r
    frame := (loadFrame r).toOption
    fields := (loadFrame r).toOption.map slice }

/-- The end of a transaction: the response is given whole, the oldest request is answered and the working values are discarded
(20_memory.md R56, R59, 10_state.md R30). -/
def respond (resp : Response) (s : State) : State :=
  { s with
    inProgress := s.inProgress.tail
    bits := none
    frame := none
    fields := none
    presented := some resp
    given := s.given ++ [resp] }

/-- `respond OK(rec)` (00_scope.md R14). -/
def respondOk (rec : Record) (s : State) : State := respond (.ok rec) s

/-- `raise E` (60_exceptions.md R205), the block's only exceptional outcome: the transaction ends at once with the
error's code and no record; nothing is saved, no mode or vector is involved. There is no return from it: the next
request is decoded as if the error had not happened (R206). -/
def raiseError (e : DecodeError) (s : State) : State := respond (.error e) s

/-- Reset (70_reset_and_hazards.md R230, R231): the block is as `State.reset` has it, and every request in
progress is abandoned. `rest`, what the host presents afterwards, and the responses it already has are the host's
(log 3). -/
def resetBlock (rest : List HostEvent) (s : State) : State :=
  { State.reset with inputs := rest, given := s.given }

/-- A host event that changes nothing in the block has passed. -/
def passEvent (rest : List HostEvent) (s : State) : State := { s with inputs := rest }

/-- The value a host's read of a response field gives: the presented record's own field, and before the first response
the zero that the port then shows (10_state.md R33, 93_implementation_defined.md I10). A read of a field that the record's
kind lacks, or of an error response, faults (70_reset_and_hazards.md R234, I8, I9; log 8). -/
def readField (f : RecField) (s : State) : Host.Outcome FieldValue Fault Refusal :=
  match s.presented with
  | none => .next (s.flatPort.field f)
  | some (.error _) => .fault .readOfErrorResponse
  | some (.ok rec) =>
    match rec.field? f with
    | none => .fault .readOfAbsentField
    | some v => .next v

end Sys2Proof.Machine
end

