-- ==== Sys2Proof/Machine/AirbornePos.lean ====
section
/-! DEFINITION. The meaning of the AIRBORNE_POS rows (42_type_code_dispatch.md R177). -/

namespace Sys2Proof.Machine

/-- 42_type_code_dispatch.md R177: `rec = HEADER(AIRBORNE_POS); rec.alt_ft = ALT_DECODE(altc); (rec.lat_q17, rec.lon_q17) = POS_DECODE(rlat, rlon)`. -/
def airbornePosRecord (tc : BitVec 5) (o : AirborneOps) : Record := .airbornePos (header .airbornePos tc o.icao o.idp) (altDecode o.altc) (posDecode o.rlat o.rlon)

/-- Row TC9.AIRBORNE_POS (R177). -/
def execTc9AirbornePos (o : AirborneOps) (s : State) : Host.Outcome State Fault Refusal := .next (respondOk (airbornePosRecord 9 o) s)

/-- Row TC10.AIRBORNE_POS (R177). -/
def execTc10AirbornePos (o : AirborneOps) (s : State) : Host.Outcome State Fault Refusal := .next (respondOk (airbornePosRecord 10 o) s)

/-- Row TC11.AIRBORNE_POS (R177). -/
def execTc11AirbornePos (o : AirborneOps) (s : State) : Host.Outcome State Fault Refusal := .next (respondOk (airbornePosRecord 11 o) s)

/-- Row TC12.AIRBORNE_POS (R177). -/
def execTc12AirbornePos (o : AirborneOps) (s : State) : Host.Outcome State Fault Refusal := .next (respondOk (airbornePosRecord 12 o) s)

/-- Row TC13.AIRBORNE_POS (R177). -/
def execTc13AirbornePos (o : AirborneOps) (s : State) : Host.Outcome State Fault Refusal := .next (respondOk (airbornePosRecord 13 o) s)

/-- Row TC14.AIRBORNE_POS (R177). -/
def execTc14AirbornePos (o : AirborneOps) (s : State) : Host.Outcome State Fault Refusal := .next (respondOk (airbornePosRecord 14 o) s)

/-- Row TC15.AIRBORNE_POS (R177). -/
def execTc15AirbornePos (o : AirborneOps) (s : State) : Host.Outcome State Fault Refusal := .next (respondOk (airbornePosRecord 15 o) s)

/-- Row TC16.AIRBORNE_POS (R177). -/
def execTc16AirbornePos (o : AirborneOps) (s : State) : Host.Outcome State Fault Refusal := .next (respondOk (airbornePosRecord 16 o) s)

/-- Row TC17.AIRBORNE_POS (R177). -/
def execTc17AirbornePos (o : AirborneOps) (s : State) : Host.Outcome State Fault Refusal := .next (respondOk (airbornePosRecord 17 o) s)

/-- Row TC18.AIRBORNE_POS (R177). -/
def execTc18AirbornePos (o : AirborneOps) (s : State) : Host.Outcome State Fault Refusal := .next (respondOk (airbornePosRecord 18 o) s)

end Sys2Proof.Machine
end

