-- ==== Sys2Proof/Machine/AirborneVel.lean ====
section
/-! DEFINITION. The meaning of the AIRBORNE_VEL row (42_type_code_dispatch.md R178). -/

namespace Sys2Proof.Machine

/-- 42_type_code_dispatch.md R178: `rec = HEADER(AIRBORNE_VEL); rec.vel_kt = VEL_DECODE(vraw)`. -/
def airborneVelRecord (tc : BitVec 5) (o : VelocityOps) : Record := .airborneVel (header .airborneVel tc o.icao o.idp) (velDecode o.vraw)

/-- Row TC19.AIRBORNE_VEL (R178). -/
def execTc19AirborneVel (o : VelocityOps) (s : State) : Host.Outcome State Fault Refusal := .next (respondOk (airborneVelRecord 19 o) s)

end Sys2Proof.Machine
end

