-- ==== Sys2Proof/Machine/ExtSquitter.lean ====
section
/-! DEFINITION. The meaning of the EXT_SQUITTER rows (42_type_code_dispatch.md R181). -/

namespace Sys2Proof.Machine

/-- 42_type_code_dispatch.md R181: `rec = HEADER(EXT_SQUITTER)`. -/
def extSquitterRecord (tc : BitVec 5) (o : PlainOps) : Record := .extSquitter (header .extSquitter tc o.icao o.idp)

/-- Row TC28.EXT_SQUITTER (R181). -/
def execTc28ExtSquitter (o : PlainOps) (s : State) : Host.Outcome State Fault Refusal := .next (respondOk (extSquitterRecord 28 o) s)

/-- Row TC29.EXT_SQUITTER (R181). -/
def execTc29ExtSquitter (o : PlainOps) (s : State) : Host.Outcome State Fault Refusal := .next (respondOk (extSquitterRecord 29 o) s)

/-- Row TC30.EXT_SQUITTER (R181). -/
def execTc30ExtSquitter (o : PlainOps) (s : State) : Host.Outcome State Fault Refusal := .next (respondOk (extSquitterRecord 30 o) s)

/-- Row TC31.EXT_SQUITTER (R181). -/
def execTc31ExtSquitter (o : PlainOps) (s : State) : Host.Outcome State Fault Refusal := .next (respondOk (extSquitterRecord 31 o) s)

end Sys2Proof.Machine
end

