-- ==== Sys2Proof/Machine/Ident.lean ====
section
/-! DEFINITION. The meaning of the IDENT rows (42_type_code_dispatch.md R175). -/

namespace Sys2Proof.Machine

/-- 42_type_code_dispatch.md R175: `rec = HEADER(IDENT); rec.cat = cat`. -/
def identRecord (tc : BitVec 5) (o : IdentOps) : Record := .ident (header .ident tc o.icao o.idp) (catDecode o.cat)

/-- Row TC1.IDENT (R175). -/
def execTc1Ident (o : IdentOps) (s : State) : Host.Outcome State Fault Refusal := .next (respondOk (identRecord 1 o) s)

/-- Row TC2.IDENT (R175). -/
def execTc2Ident (o : IdentOps) (s : State) : Host.Outcome State Fault Refusal := .next (respondOk (identRecord 2 o) s)

/-- Row TC3.IDENT (R175). -/
def execTc3Ident (o : IdentOps) (s : State) : Host.Outcome State Fault Refusal := .next (respondOk (identRecord 3 o) s)

/-- Row TC4.IDENT (R175). -/
def execTc4Ident (o : IdentOps) (s : State) : Host.Outcome State Fault Refusal := .next (respondOk (identRecord 4 o) s)

end Sys2Proof.Machine
end

