-- ==== Sys2Proof/Machine/NoPos.lean ====
section
/-! DEFINITION. The meaning of the NOPOS row (42_type_code_dispatch.md R174). -/

namespace Sys2Proof.Machine

/-- 42_type_code_dispatch.md R174: `rec = HEADER(NOPOS)`; no payload beyond identification. -/
def noposRecord (tc : BitVec 5) (o : PlainOps) : Record := .nopos (header .nopos tc o.icao o.idp)

/-- Row TC0.NOPOS (R174). -/
def execTc0Nopos (o : PlainOps) (s : State) : Host.Outcome State Fault Refusal := .next (respondOk (noposRecord 0 o) s)

end Sys2Proof.Machine
end

