-- ==== Sys2Proof/Machine/Reserved.lean ====
section
/-! DEFINITION. The meaning of the RESERVED rows (42_type_code_dispatch.md R179). -/

namespace Sys2Proof.Machine

/-- 42_type_code_dispatch.md R179: `rec = HEADER(RESERVED)`: a reserved type code is not an error. -/
def reservedRecord (tc : BitVec 5) (o : PlainOps) : Record := .reserved (header .reserved tc o.icao o.idp)

/-- Row TC20.RESERVED (R179). -/
def execTc20Reserved (o : PlainOps) (s : State) : Host.Outcome State Fault Refusal := .next (respondOk (reservedRecord 20 o) s)

/-- Row TC21.RESERVED (R179). -/
def execTc21Reserved (o : PlainOps) (s : State) : Host.Outcome State Fault Refusal := .next (respondOk (reservedRecord 21 o) s)

/-- Row TC22.RESERVED (R179). -/
def execTc22Reserved (o : PlainOps) (s : State) : Host.Outcome State Fault Refusal := .next (respondOk (reservedRecord 22 o) s)

end Sys2Proof.Machine
end

