-- ==== Sys2Proof/Machine/SurfacePos.lean ====
section
/-! DEFINITION. The meaning of the SURFACE_POS rows (42_type_code_dispatch.md R176). -/

namespace Sys2Proof.Machine

/-- 42_type_code_dispatch.md R176: `rec = HEADER(SURFACE_POS); (rec.lat_q17, rec.lon_q17) = POS_DECODE(rlat, rlon)`. -/
def surfacePosRecord (tc : BitVec 5) (o : SurfaceOps) : Record := .surfacePos (header .surfacePos tc o.icao o.idp) (posDecode o.rlat o.rlon)

/-- Row TC5.SURFACE_POS (R176). -/
def execTc5SurfacePos (o : SurfaceOps) (s : State) : Host.Outcome State Fault Refusal := .next (respondOk (surfacePosRecord 5 o) s)

/-- Row TC6.SURFACE_POS (R176). -/
def execTc6SurfacePos (o : SurfaceOps) (s : State) : Host.Outcome State Fault Refusal := .next (respondOk (surfacePosRecord 6 o) s)

/-- Row TC7.SURFACE_POS (R176). -/
def execTc7SurfacePos (o : SurfaceOps) (s : State) : Host.Outcome State Fault Refusal := .next (respondOk (surfacePosRecord 7 o) s)

/-- Row TC8.SURFACE_POS (R176). -/
def execTc8SurfacePos (o : SurfaceOps) (s : State) : Host.Outcome State Fault Refusal := .next (respondOk (surfacePosRecord 8 o) s)

end Sys2Proof.Machine
end

