-- ==== Sys2Proof/Machine/TestMessage.lean ====
section
/-! DEFINITION. The meaning of the TEST rows (42_type_code_dispatch.md R180). -/

namespace Sys2Proof.Machine

/-- 42_type_code_dispatch.md R180: `rec = HEADER(TEST)`. -/
def testRecord (tc : BitVec 5) (o : PlainOps) : Record := .test (header .test tc o.icao o.idp)

/-- Row TC23.TEST (R180). -/
def execTc23Test (o : PlainOps) (s : State) : Host.Outcome State Fault Refusal := .next (respondOk (testRecord 23 o) s)

/-- Row TC24.TEST (R180). -/
def execTc24Test (o : PlainOps) (s : State) : Host.Outcome State Fault Refusal := .next (respondOk (testRecord 24 o) s)

/-- Row TC25.TEST (R180). -/
def execTc25Test (o : PlainOps) (s : State) : Host.Outcome State Fault Refusal := .next (respondOk (testRecord 25 o) s)

/-- Row TC26.TEST (R180). -/
def execTc26Test (o : PlainOps) (s : State) : Host.Outcome State Fault Refusal := .next (respondOk (testRecord 26 o) s)

/-- Row TC27.TEST (R180). -/
def execTc27Test (o : PlainOps) (s : State) : Host.Outcome State Fault Refusal := .next (respondOk (testRecord 27 o) s)

end Sys2Proof.Machine
end

