-- ==== Sys2Proof/Machine/Dispatch.lean ====
section
/-! DEFINITION. The dispatch of an instruction to its meaning: one arm per row of spec/opcode_table.json. -/

namespace Sys2Proof.Machine

def exec (i : Instr) (s : State) : Host.Outcome State Fault Refusal :=
  match i with
  | .tc0Nopos o => Sys2Proof.Machine.execTc0Nopos o s
  | .tc1Ident o => Sys2Proof.Machine.execTc1Ident o s
  | .tc2Ident o => Sys2Proof.Machine.execTc2Ident o s
  | .tc3Ident o => Sys2Proof.Machine.execTc3Ident o s
  | .tc4Ident o => Sys2Proof.Machine.execTc4Ident o s
  | .tc5SurfacePos o => Sys2Proof.Machine.execTc5SurfacePos o s
  | .tc6SurfacePos o => Sys2Proof.Machine.execTc6SurfacePos o s
  | .tc7SurfacePos o => Sys2Proof.Machine.execTc7SurfacePos o s
  | .tc8SurfacePos o => Sys2Proof.Machine.execTc8SurfacePos o s
  | .tc9AirbornePos o => Sys2Proof.Machine.execTc9AirbornePos o s
  | .tc10AirbornePos o => Sys2Proof.Machine.execTc10AirbornePos o s
  | .tc11AirbornePos o => Sys2Proof.Machine.execTc11AirbornePos o s
  | .tc12AirbornePos o => Sys2Proof.Machine.execTc12AirbornePos o s
  | .tc13AirbornePos o => Sys2Proof.Machine.execTc13AirbornePos o s
  | .tc14AirbornePos o => Sys2Proof.Machine.execTc14AirbornePos o s
  | .tc15AirbornePos o => Sys2Proof.Machine.execTc15AirbornePos o s
  | .tc16AirbornePos o => Sys2Proof.Machine.execTc16AirbornePos o s
  | .tc17AirbornePos o => Sys2Proof.Machine.execTc17AirbornePos o s
  | .tc18AirbornePos o => Sys2Proof.Machine.execTc18AirbornePos o s
  | .tc19AirborneVel o => Sys2Proof.Machine.execTc19AirborneVel o s
  | .tc20Reserved o => Sys2Proof.Machine.execTc20Reserved o s
  | .tc21Reserved o => Sys2Proof.Machine.execTc21Reserved o s
  | .tc22Reserved o => Sys2Proof.Machine.execTc22Reserved o s
  | .tc23Test o => Sys2Proof.Machine.execTc23Test o s
  | .tc24Test o => Sys2Proof.Machine.execTc24Test o s
  | .tc25Test o => Sys2Proof.Machine.execTc25Test o s
  | .tc26Test o => Sys2Proof.Machine.execTc26Test o s
  | .tc27Test o => Sys2Proof.Machine.execTc27Test o s
  | .tc28ExtSquitter o => Sys2Proof.Machine.execTc28ExtSquitter o s
  | .tc29ExtSquitter o => Sys2Proof.Machine.execTc29ExtSquitter o s
  | .tc30ExtSquitter o => Sys2Proof.Machine.execTc30ExtSquitter o s
  | .tc31ExtSquitter o => Sys2Proof.Machine.execTc31ExtSquitter o s

end Sys2Proof.Machine
end

