-- ==== Sys2Proof/Machine/Transaction.lean ====
section
/-! DEFINITION. One transaction through the machine, and what a step does with each host event. -/

namespace Sys2Proof.Machine

/-- The rest of a transaction whose request has been taken: the request is decoded and the instruction run, or the error
raised (42_type_code_dispatch.md R170). -/
def transact (r : Request) (s : State) : Host.Outcome State Fault Refusal :=
  match decode r with
  | .error e => .next (raiseError e s)
  | .ok i => exec i (loadWorking r s)

/-- The oldest request in progress is answered; with none in progress nothing happens (20_memory.md R59; log 10). -/
def answerOldest (s : State) : Host.Outcome State Fault Refusal :=
  match s.inProgress with
  | [] => .next s
  | r :: _ => transact r s

/-- The host events that can fall while a request is in progress: a reset (70_reset_and_hazards.md R231), a further request (R237), a
read of the response that is presented (R238), and waiting; every other one comes after the answers to the requests before it
(20_memory.md R59; log 2). -/
def overlaps : HostEvent → Bool
  | .reset => true
  | .take _ => true
  | .wait => true
  | .request _ => false
  | .requestChanged _ _ => false
  | .read _ => true

/-- What a step does with a host event (70_reset_and_hazards.md R238). -/
def handleEvent (c : Config) (e : HostEvent) (rest : List HostEvent) (s : State) : Host.Outcome State Fault Refusal :=
  match e with
  | .request r => if admits c r then transact r (takeRequest r rest s) else .refused .requestTooLong
  | .take r => if admits c r then .next (takeRequest r rest s) else .refused .requestTooLong
  | .wait => answerOldest (passEvent rest s)
  | .requestChanged before after =>
    if before ≠ after then .refused .requestChangedWhileTaken
    else if admits c before then transact before (takeRequest before rest s) else .refused .requestTooLong
  | .read f =>
    match readField f s with
    | .next _ => .next (passEvent rest s)
    | .fault r => .fault r
    | .refused r => .refused r
  | .reset => .next (resetBlock rest s)

/-- One step: the next host event is handled when it may fall now, and otherwise the oldest request in progress is answered. -/
def advance (c : Config) (s : State) : Host.Outcome State Fault Refusal :=
  match s.inputs with
  | [] => answerOldest s
  | e :: rest => if overlaps e || s.inProgress.isEmpty then handleEvent c e rest s else answerOldest s

end Sys2Proof.Machine
end

