-- ==== Sys2Proof/Machine/Step.lean ====
section
/-! DEFINITION. One step of the block, for an instance and for the reference model, and the presenting of a word as the next
request. -/

namespace Sys2Proof.Machine

/-- One step of an instance. -/
def stepWith (c : Config) (s : State) : Host.Outcome State Fault Refusal := advance c s

/-- One step of the reference model, which takes any finite request (10_state.md R25; log 4). -/
def step (s : State) : Host.Outcome State Fault Refusal := stepWith Config.reference s

/-- The host presents the request that spells a word of spec/opcode_table.json, next before everything else, with no
other request in progress (log 16). -/
def State.withFetchWord (s : State) (nbits w : Nat) : State :=
  { s with inputs := .request (tableRequest nbits w) :: s.inputs, inProgress := [] }

end Sys2Proof.Machine
end

