-- ==== Sys2Proof/Machine/Reference.lean ====
section
/-! DEFINITION. DECODE as 42_type_code_dispatch.md R170 writes it, from a request to its response, by record kind: no state,
no instruction. Claims compare the machine with it. -/

namespace Sys2Proof.Machine

/-- The record of a loaded frame: `kind <- DISPATCH(tc)`, then HEADER(kind) with the payload of the kind's rule
(42_type_code_dispatch.md R170, R174 to R182). -/
def recordOf (F : Frame) : Record :=
  let f := slice F
  let kind := dispatch f.tc
  let h := header kind f.tc f.icao f.idp
  match kind with
  | .nopos => .nopos h
  | .ident => .ident h (catDecode f.cat)
  | .surfacePos => .surfacePos h (posDecode f.rlat f.rlon)
  | .airbornePos => .airbornePos h (altDecode f.altc) (posDecode f.rlat f.rlon)
  | .airborneVel => .airborneVel h (velDecode f.vraw)
  | .reserved => .reserved h
  | .test => .test h
  | .extSquitter => .extSquitter h
  | .unknown => .unknown h

/-- DECODE (42_type_code_dispatch.md R170). -/
def decodeResponse (r : Request) : Response :=
  match loadFrame r with
  | .error e => .error e
  | .ok F => .ok (recordOf F)

end Sys2Proof.Machine
end

