-- ==== Sys2Proof/Safety.lean ====
section
/-! DEFINITION. The terms of the claims: what a legal record, response and state are, what it means that a step runs a
request, which requests of a list of host events are answered, and the spec's tables spelled out a second time,
independently of the machine. -/

namespace Sys2Proof.Machine

/-! ## Legal records and the invariant -/

/-- A header that some frame could give: the kind is the type code's, the strings have the widths of 10_state.md R27, and
the identification string holds only letters, blanks and sentinels and neither begins nor ends with a blank. -/
def Header.wf (h : Header) : Bool :=
  decide (h.kind = dispatch h.tc ∧ h.icaoHex = Machine.icaoHex h.icao ∧ h.description = romDesc h.kind ∧
    h.idLen.toNat = h.idChars.length ∧ h.idChars.length ≤ 8 ∧
    (∀ c ∈ h.idChars, c = 0x20 ∨ c = 0x3F ∨ (0x41 ≤ c.toNat ∧ c.toNat ≤ 0x5A)) ∧
    h.idChars.head? ≠ some 0x20 ∧ h.idChars.getLast? ≠ some 0x20)

/-- A position inside the intervals of 41_field_decoders.md R138, on the grid of R136. -/
def Position.wf (p : Position) : Bool :=
  decide (-11796480 ≤ p.latQ17.toInt ∧ p.latQ17.toInt ≤ 11796300 ∧ p.latQ17.toInt % 180 = 0 ∧
    -23592960 ≤ p.lonQ17.toInt ∧ p.lonQ17.toInt ≤ 23592600 ∧ p.lonQ17.toInt % 360 = 0)

/-- A record that some frame could give: its variant is its header's kind and never UNKNOWN, and its payload lies in the
ranges of 41_field_decoders.md R138 and R142. -/
def Record.wf (rec : Record) : Bool :=
  rec.header.wf && decide (rec.variant = rec.header.kind) && decide (rec.variant ≠ .unknown) &&
    (rec.pos?.all Position.wf) && (rec.altFt?.all fun a => decide (a.toNat ≤ 101375 ∧ a.toNat % 25 = 0))

/-- A response that some request could get. -/
def Response.wf : Response → Bool
  | .ok rec => rec.wf
  | .error _ => true

/-- Between steps the block holds no working value of a transaction (10_state.md R30, 60_exceptions.md R212), every
response it has given is legal, and the one on its port is the last it gave. -/
abbrev State.Inv (s : State) : Prop :=
  s.bits = none ∧ s.frame = none ∧ s.fields = none ∧
    (s.presented = none ∨ s.presented = s.given.getLast?) ∧ ∀ resp ∈ s.given, resp.wf = true

/-! ## Runs -/

/-- The next step of `s` runs the whole transaction of the request `r` (or the rest of it, where `r` was taken by an
earlier step): `rest` is what is then left of what the host has presented, `q` the requests in progress behind it. -/
def Runs (s : State) (r : Request) (rest : List HostEvent) (q : List Request) : Prop :=
  (s.inProgress = [] ∧ q = [] ∧ s.inputs = .request r :: rest) ∨
    (s.inProgress = r :: q ∧ s.inputs = .wait :: rest) ∨
    (s.inProgress = r :: q ∧ s.inputs = rest ∧ ∀ e ∈ rest.head?, overlaps e = false)

/-- The state after the transaction of one request: `rest` is left of what the host presented, `q` is in progress, no
working value is held, `resp` is on the response port and is the last response given. -/
def answered (s : State) (rest : List HostEvent) (q : List Request) (resp : Response) : State where
  inputs := rest
  inProgress := q
  bits := none
  frame := none
  fields := none
  presented := some resp
  given := s.given ++ [resp]

/-- The instruction, run in `s`, completes with the record `rec` and STATUS 0: what it changes and that it changes nothing
else. -/
def Answers (i : Instr) (s : State) (rec : Record) : Prop :=
  exec i s = .next (answered s s.inputs s.inProgress.tail (.ok rec)) ∧ (Response.ok rec).status = 0

/-- The host keeps its duties of 70_reset_and_hazards.md section 2: it changes no request that is being taken, and reads
nothing. -/
def HostEvent.plain : HostEvent → Bool
  | .request _ => true
  | .take _ => true
  | .wait => true
  | .reset => true
  | .requestChanged _ _ => false
  | .read _ => false

/-- The requests that get a response, in order, when `q` is in progress and the host presents these events: all but those that
a reset abandons (70_reset_and_hazards.md R231, R239). -/
def answeredRequests : List Request → List HostEvent → List Request
  | q, [] => q
  | _, .reset :: es => answeredRequests [] es
  | q, .take r :: es => answeredRequests (q ++ [r]) es
  | q, .wait :: es => q.take 1 ++ answeredRequests q.tail es
  | q, .request r :: es => q ++ r :: answeredRequests [] es
  | q, .requestChanged _ _ :: es => q ++ answeredRequests [] es
  | q, .read _ :: es => answeredRequests q es

/-! ## The spec's tables, spelled out -/

/-- The character stands for the digit value (30_encoding.md R70). -/
def IsDigit (c : Byte) (v : Nat) : Prop :=
  (ascii "0123456789ABCDEF")[v]? = some c ∨ (ascii "0123456789abcdef")[v]? = some c

/-- The uppercase form of a hex digit (40_hex_and_frame.md R109). -/
def upper (c : Byte) : Byte := if 0x61 ≤ c.toNat ∧ c.toNat ≤ 0x66 then c - 0x20 else c

/-- The 64 characters of the identification alphabet in order (41_field_decoders.md R132). -/
def idAlphabet : List Byte := ascii " ABCDEFGHIJKLMNOPQRSTUVWXYZ      ???????????????????????????????"

/-- `id` is `raw` without its leading and trailing blanks (41_field_decoders.md R134). -/
def IsTrimOf (raw id : List Byte) : Prop :=
  (∃ a b, raw = List.replicate a 0x20 ++ id ++ List.replicate b 0x20) ∧
    id.head? ≠ some 0x20 ∧ id.getLast? ≠ some 0x20

/-- `h` is the header that 42_type_code_dispatch.md R172 gives a frame with this kind, type code, ICAO address and
identification payload. -/
structure HeaderOf (h : Header) (kind : RecordKind) (code : Nat) (description : String) (tc : BitVec 5)
    (icao : BitVec 24) (idp : BitVec 48) : Prop where
  icao_eq : h.icao = icao
  tc_eq : h.tc = tc
  kind_eq : h.kind = kind
  code_eq : h.kind.code.toNat = code
  description_eq : h.description = ascii description
  icaoHex_length : h.icaoHex.length = 6
  icaoHex_digit : ∀ j < 6, h.icaoHex[j]? = (ascii "0123456789ABCDEF")[icao.toNat / 16 ^ (5 - j) % 16]?
  idLen_eq : h.idLen.toNat = h.idChars.length
  id_trim : ∃ raw : List Byte, raw.length = 8 ∧
    (∀ k < 8, raw[k]? = idAlphabet[idp.toNat / 64 ^ (7 - k) % 64]?) ∧ IsTrimOf raw h.idChars

/-- Which record fields a kind carries (the table of 10_state.md R27). -/
def carries : RecordKind → RecField → Bool
  | _, .icao => true
  | _, .icaoHex => true
  | _, .tc => true
  | _, .kind => true
  | _, .description => true
  | _, .idLen => true
  | _, .idChars => true
  | k, .cat => k == .ident
  | k, .latQ17 => k == .surfacePos || k == .airbornePos
  | k, .lonQ17 => k == .surfacePos || k == .airbornePos
  | k, .altFt => k == .airbornePos
  | k, .velKt => k == .airborneVel

/-- `v` is the value of the record's own field, variant by variant (the table of 10_state.md R27). -/
def HasField (rec : Record) (v : FieldValue) : RecField → Prop
  | .icao => v = .unsigned rec.header.icao.toNat
  | .icaoHex => v = .chars rec.header.icaoHex
  | .tc => v = .unsigned rec.header.tc.toNat
  | .kind => v = .unsigned rec.header.kind.code.toNat
  | .description => v = .chars rec.header.description
  | .idLen => v = .unsigned rec.header.idLen.toNat
  | .idChars => v = .chars rec.header.idChars
  | .cat => ∃ h cat, rec = .ident h cat ∧ v = .unsigned cat.toNat
  | .latQ17 => ∃ h alt pos, (rec = .surfacePos h pos ∨ rec = .airbornePos h alt pos) ∧ v = .signed pos.latQ17.toInt
  | .lonQ17 => ∃ h alt pos, (rec = .surfacePos h pos ∨ rec = .airbornePos h alt pos) ∧ v = .signed pos.lonQ17.toInt
  | .altFt => ∃ h alt pos, rec = .airbornePos h alt pos ∧ v = .unsigned alt.toNat
  | .velKt => ∃ h vel, rec = .airborneVel h vel ∧ v = .unsigned vel.toNat

/-- What a field of the response port reads as before the first response: zero in every bit and byte (10_state.md R33; that the
description port has 29 bytes is log 12). -/
def unansweredValue : RecField → FieldValue
  | .icao => .unsigned 0
  | .icaoHex => .chars (List.replicate 6 0)
  | .tc => .unsigned 0
  | .kind => .unsigned 0
  | .description => .chars (List.replicate 29 0)
  | .idLen => .unsigned 0
  | .idChars => .chars (List.replicate 8 0)
  | .cat => .unsigned 0
  | .latQ17 => .signed 0
  | .lonQ17 => .signed 0
  | .altFt => .unsigned 0
  | .velKt => .unsigned 0

end Sys2Proof.Machine
end

