-- ==== Sys2Proof/Certificates/Slice0/Obligations.lean ====
section
/-! DEFINITION. The statements for the provers. Where a docstring says "spec's choice D<n>", the clause rests on a decision of
92_eei_decisions.md; where it says "log <n>", on the model's own choice. -/

open Sys2Proof Sys2Proof.Machine

/-! ## Reset and the stepping of the machine -/

/-- 10_state.md R33 (spec's choice D19): after reset nothing is held, in progress or presented, no working value exists, and
the flat port reads zero in every field. That `inputs` and `given` are fields of the state, empty at reset, is log 1; that the
description port has 29 bytes is log 12. -/
def Obligations.ResetHoldsNothing : Prop :=
  State.reset = { inputs := [], inProgress := [], bits := none, frame := none, fields := none, presented := none, given := [] } ∧
  State.reset.flatPort =
    { status := 0, icao := 0, icaoHex := List.replicate 6 0, tc := 0, kind := 0, description := List.replicate 29 0, idLen := 0,
      idChars := List.replicate 8 0, cat := 0, latQ17 := 0, lonQ17 := 0, altFt := 0, velKt := 0 }

/-- The invariant holds after reset. -/
def Obligations.ResetMeetsInvariant : Prop := State.reset.Inv

/-- From every state that meets the invariant, on every instance, a step that answers a next state keeps it: no working value
outlives the step, every response given is legal, and the port presents the last one or nothing. -/
def Obligations.EveryStepKeepsInvariant : Prop :=
  ∀ (c : Config) (s t : State), s.Inv → stepWith c s = .next t → t.Inv

/-- A step runs the instruction its request decodes to: in the state in which the request has been taken and the working
values are loaded. -/
def Obligations.StepRunsDecodedInstruction : Prop :=
  ∀ (s : State) (r : Request) (rest : List HostEvent) (q : List Request) (i : Instr) (F : Frame) (bits : Bits),
    Runs s r rest q → hex2bits r = some bits → loadFrame r = .ok F → decode r = .ok i →
    step s = exec i { s with inputs := rest, inProgress := r :: q, bits := some bits, frame := some F, fields := some (slice F) }

/-- With no host event and no request in progress a step changes nothing (log 10). -/
def Obligations.IdleBlockStaysAsItIs : Prop :=
  ∀ s : State, s.inputs = [] → s.inProgress = [] → step s = .next s

/-- 42_type_code_dispatch.md R170: one transaction of the machine, from any state, answers what R170's pseudocode DECODE answers
for the request, and does nothing else. -/
def Obligations.StepImplementsDecode : Prop :=
  ∀ (s : State) (r : Request) (rest : List HostEvent) (q : List Request), Runs s r rest q →
    step s = .next (answered s rest q (decodeResponse r))

/-- 20_memory.md R57: the same request gives the same response whatever came before it; and a host's read that passes changes
nothing in the block (that a host's read is a step is log 8). -/
def Obligations.SameRequestSameResponse : Prop :=
  (∀ r : Request, ∃ resp : Response, ∀ (s : State) (rest : List HostEvent) (q : List Request), Runs s r rest q →
    step s = .next (answered s rest q resp)) ∧
  (∀ (s t : State) (f : RecField) (rest : List HostEvent), s.inputs = .read f :: rest → step s = .next t →
    t = { s with inputs := rest })

/-- 70_reset_and_hazards.md R239, R231, 20_memory.md R59: from any state, whatever is in progress, any list of requests (answered at
once, or taken and answered later, overlapping or not) and resets is worked off in some number of steps; every request but those that a
reset abandons is answered, once, in order, each with R170's DECODE of it, errors included. -/
def Obligations.RunAnswersEveryRequestInOrder : Prop :=
  ∀ s : State, (∀ e ∈ s.inputs, e.plain = true) →
    ∃ (k : Nat) (t : State), core.run k s = .next t ∧ t.inputs = [] ∧ t.inProgress = [] ∧
      t.given = s.given ++ (answeredRequests s.inProgress s.inputs).map decodeResponse

/-- 70_reset_and_hazards.md R230, R231 (spec's choice D19): a reset comes before the answer to a request in progress; every such
request is abandoned, no response is given, and the block is as after reset. What the host presents afterwards and the responses it
already has stay (log 3). -/
def Obligations.ResetAbandonsRequestsInProgress : Prop :=
  ∀ (s : State) (rest : List HostEvent), s.inputs = .reset :: rest →
    step s = .next { State.reset with inputs := rest, given := s.given }

/-- A request that is taken and not answered yet stays in progress, whole, behind the earlier ones, even where those are not answered
yet (70_reset_and_hazards.md R237; log 2). -/
def Obligations.TakenRequestStaysInProgress : Prop :=
  ∀ (s : State) (r : Request) (rest : List HostEvent), s.inputs = .take r :: rest →
    step s = .next { s with inputs := rest, inProgress := s.inProgress ++ [r] }

/-- 70_reset_and_hazards.md R233 (spec's choice D20): a request changed while being taken is refused; one that was presented twice
alike is an ordinary request (log 11). -/
def Obligations.ChangedRequestIsRefused : Prop :=
  ∀ (s : State) (before after : Request) (rest : List HostEvent), s.inProgress = [] →
    s.inputs = .requestChanged before after :: rest →
    (before ≠ after → step s = .refused .requestChangedWhileTaken) ∧
    (before = after → step s = .next (answered s rest [] (decodeResponse before)))

/-- 92_eei_decisions.md D3, 93_implementation_defined.md I13 (log 4): an instance bounded at `n` characters refuses, at the step that
would take it, a longer request, whether presented, taken, or presented twice alike; every other step is the reference model's, also
where a longer request stands behind one in progress; and no instance, whatever its bound, refuses a request of up to 28 characters. -/
def Obligations.BoundedInstanceRefusesOnlyLongRequests : Prop :=
  (∀ (c : Config) (n : MaxLen) (s : State), c.inMaxLen = some n →
    (∀ (r : Request) (rest : List HostEvent),
      (s.inProgress = [] ∧ (s.inputs = .request r :: rest ∨ s.inputs = .requestChanged r r :: rest)) ∨ s.inputs = .take r :: rest →
      n.val < r.length → stepWith c s = .refused .requestTooLong) ∧
    ((∀ e ∈ s.inputs.head?, s.inProgress = [] ∨ overlaps e = true → ∀ r,
        e = .request r ∨ e = .take r ∨ e = .requestChanged r r → r.length ≤ n.val) →
      stepWith c s = step s)) ∧
  (∀ (c : Config) (s : State),
    (∀ e ∈ s.inputs.head?, ∀ r, e = .request r ∨ e = .take r ∨ e = .requestChanged r r → r.length ≤ 28) →
    stepWith c s = step s)

/-- 00_scope.md R10, 70_reset_and_hazards.md R236 (log 5): LATENCY, CYCLE_PROTOCOL and REG_MAP are open, and no step depends on
them: two instances that differ in them alone take the same step from every state. -/
def Obligations.OpenParametersNeverMatter : Prop :=
  ∀ (n : Option MaxLen) (latency latency' : Nat) (protocol protocol' : String) (regMap regMap' : List (Nat × String)) (s : State),
    stepWith ⟨n, latency, protocol, regMap⟩ s = stepWith ⟨n, latency', protocol', regMap'⟩ s

/-! ## Characters, bits and the frame -/

/-- 30_encoding.md R70, 40_hex_and_frame.md R100 (spec's choice D2): the table gives a byte the value of the hex digit it is, in
either case, and gives no other byte a value. -/
def Obligations.HexDigitTable : Prop :=
  ∀ (c : Byte) (v : Nibble), romHexVal c = some v ↔ IsDigit c v.toNat

/-- 40_hex_and_frame.md R101: a request with a character that is no hex digit, whatever its length, is answered with
InvalidHexInput, STATUS 1, and no record. -/
def Obligations.BadCharacterAnswersInvalidHex : Prop :=
  ∀ (s : State) (r : Request) (rest : List HostEvent) (q : List Request), Runs s r rest q → (∃ c ∈ r, romHexVal c = none) →
    step s = .next (answered s rest q (.error .invalidHexInput)) ∧ (Response.error .invalidHexInput).status = 1

/-- 40_hex_and_frame.md R103: a request of hex digits whose expansion is not 112 bits long is answered with InvalidFrameLength,
STATUS 2, and no record. -/
def Obligations.WrongLengthAnswersInvalidLength : Prop :=
  ∀ (s : State) (r : Request) (rest : List HostEvent) (q : List Request), Runs s r rest q → (∀ c ∈ r, romHexVal c ≠ none) → 4 * r.length ≠ 112 →
    step s = .next (answered s rest q (.error .invalidFrameLength)) ∧ (Response.error .invalidFrameLength).status = 2

/-- 40_hex_and_frame.md R102, 20_memory.md R51: the expansion of a request of hex digits has four bits for each character, the
digit's most significant bit first, the first character first. -/
def Obligations.ExpansionIsBigEndian : Prop :=
  ∀ r : Request, (∀ c ∈ r, romHexVal c ≠ none) → ∃ bits : Bits, hex2bits r = some bits ∧ bits.length = 4 * r.length ∧
    ∀ (j : Nat) (c : Byte) (v : Nibble), r[j]? = some c → romHexVal c = some v →
      ∀ k < 4, bits[4 * j + k]? = some (v.getLsbD (3 - k))

/-- 40_hex_and_frame.md R104: the frame register holds the expanded bits in order, and read as one integer it is the request read in
base 16. -/
def Obligations.FrameRegisterHoldsRequest : Prop :=
  ∀ (r : Request) (F : Frame), loadFrame r = .ok F → ∃ (bits : Bits) (ds : List Nibble),
    hex2bits r = some bits ∧ (∀ i < 112, bits[i]? = some (F.getLsbD (111 - i))) ∧
    ds.length = 28 ∧ (∀ j < 28, ∃ c, r[j]? = some c ∧ romHexVal c = ds[j]?) ∧
    F.toNat = ∑ j ∈ Finset.range 28, (ds[j]?.getD 0).toNat * 16 ^ (27 - j)

/-- 40_hex_and_frame.md R105: FIELD is the unsigned value of the bits of its range, most significant first. -/
def Obligations.FieldIsUnsignedBigEndian : Prop :=
  ∀ (F : Frame) (a b : Nat), a < b → b ≤ 112 →
    (field F a b).toNat = ∑ k ∈ Finset.Ico a b, (F.getLsbD (111 - k)).toNat * 2 ^ (b - 1 - k) ∧
    (field F a b).toNat = F.toNat / 2 ^ (112 - b) % 2 ^ (b - a)

/-- 40_hex_and_frame.md R106: the eight slices of a frame, by their places in the 112-bit integer. -/
def Obligations.SlicesStandWhereR106Says : Prop :=
  ∀ F : Frame, (slice F).icao.toNat = F.toNat / 2 ^ 80 % 2 ^ 24 ∧ (slice F).tc.toNat = F.toNat / 2 ^ 75 % 2 ^ 5 ∧
    (slice F).cat.toNat = F.toNat / 2 ^ 72 % 2 ^ 3 ∧ (slice F).idp.toNat = F.toNat / 2 ^ 24 % 2 ^ 48 ∧
    (slice F).altc.toNat = F.toNat / 2 ^ 60 % 2 ^ 12 ∧ (slice F).vraw.toNat = F.toNat / 2 ^ 49 % 2 ^ 10 ∧
    (slice F).rlat.toNat = F.toNat / 2 ^ 41 % 2 ^ 17 ∧ (slice F).rlon.toNat = F.toNat / 2 ^ 24 % 2 ^ 17

/-- 40_hex_and_frame.md R109: hex to bits and back gives the request in uppercase, at every length. -/
def Obligations.HexRoundTripIsUppercase : Prop :=
  ∀ (r : Request) (bits : Bits), hex2bits r = some bits → bits2hex bits = r.map upper

/-! ## Encoding -/

/-- 30_encoding.md R71, R78: the decoder reads an instruction from exactly the requests of 28 hex digits. -/
def Obligations.EveryFrameDecodes : Prop :=
  ∀ r : Request, (∃ i, decode r = .ok i) ↔ (r.length = 28 ∧ ∀ c ∈ r, romHexVal c ≠ none)

/-- Decoding the encoding of a well-formed instruction, at every value of every operand and of the unread bits, gives it back
(that an instruction carries its unread bits is log 7). -/
def Obligations.DecodeOfEncodeIsIdentity : Prop :=
  ∀ i : Instr, i.wf = true → decode (encode i) = .ok i

/-- 30_encoding.md R79: what a request decodes to is well formed, and encoding it gives the request in its canonical, uppercase
spelling: no bit of a frame is dropped. That an instruction carries its unread bits and its overlapping operands, and that well-formed
means that these agree, is log 7. -/
def Obligations.EncodeOfDecodeIsCanonical : Prop :=
  ∀ (r : Request) (i : Instr), decode r = .ok i → i.wf = true ∧ encode i = r.map upper

/-- 30_encoding.md R73, R75: the row is the one whose type code stands in the high five bits of the byte that characters 8 and 9
spell; an IDENT row's category is its low three bits. -/
def Obligations.TypeCodeIsHighBitsOfByteFour : Prop :=
  ∀ (r : Request) (i : Instr) (hi lo : Nibble), decode r = .ok i → (r[8]?.bind romHexVal) = some hi → (r[9]?.bind romHexVal) = some lo →
    i.layout.tc.toNat = (16 * hi.toNat + lo.toNat) / 8 ∧ i.layout.low3.toNat = (16 * hi.toNat + lo.toNat) % 8

/-- Words written out from the spec's encodings decode to the rows they stand for: one of each family. -/
def Obligations.WordsDecodeToTheirRows : Prop :=
  decodeTableWord 112 0x0000000000000000000000000000 = some (.tc0Nopos ⟨0, 0, 0, 0, 0⟩) ∧
  decodeTableWord 112 0x8D1234560D000000000000000000 = some (.tc1Ident ⟨0x8D, 0x123456, 5, 0, 0⟩) ∧
  decodeTableWord 112 0x8DA1B2C3280002D282527D000000 = some (.tc5SurfacePos ⟨0x8D, 0xA1B2C3, 0, 0x0002D282527D, 92481, 21117, 0⟩) ∧
  decodeTableWord 112 0x8D3C65864802900001FFFF000000 =
    some (.tc9AirbornePos ⟨0x8D, 0x3C6586, 0, 0x02900001FFFF, 41, 0, 131071, 0⟩) ∧
  decodeTableWord 112 0x8D4B181498000384000000000000 = some (.tc19AirborneVel ⟨0x8D, 0x4B1814, 0, 0x000384000000, 450, 0⟩) ∧
  decodeTableWord 112 0x8D111111A0000000000000000000 = some (.tc20Reserved ⟨0x8D, 0x111111, 0, 0, 0⟩) ∧
  decodeTableWord 112 0x8D222222D8000000000000000000 = some (.tc27Test ⟨0x8D, 0x222222, 0, 0, 0⟩) ∧
  decodeTableWord 112 0xFFFFFFFFFFFFFFFFFFFFFFFFFFFF =
    some (.tc31ExtSquitter ⟨0xFF, 0xFFFFFF, 7, 0xFFFFFFFFFFFF, 0xFFFFFF⟩)

/-! ## Dispatch -/

/-- 42_type_code_dispatch.md R171: a request of 28 hex digits is answered with a record of exactly the kind that the ranges of R171
give the type code in its header. -/
def Obligations.DispatchIsTotalOverTypeCodes : Prop :=
  ∀ (s : State) (r : Request) (rest : List HostEvent) (q : List Request), Runs s r rest q → r.length = 28 → (∀ c ∈ r, romHexVal c ≠ none) →
    ∃ rec : Record, step s = .next (answered s rest q (.ok rec)) ∧ rec.header.kind = rec.variant ∧
      (rec.variant = .nopos ↔ rec.header.tc.toNat = 0) ∧
      (rec.variant = .ident ↔ 1 ≤ rec.header.tc.toNat ∧ rec.header.tc.toNat ≤ 4) ∧
      (rec.variant = .surfacePos ↔ 5 ≤ rec.header.tc.toNat ∧ rec.header.tc.toNat ≤ 8) ∧
      (rec.variant = .airbornePos ↔ 9 ≤ rec.header.tc.toNat ∧ rec.header.tc.toNat ≤ 18) ∧
      (rec.variant = .airborneVel ↔ rec.header.tc.toNat = 19) ∧
      (rec.variant = .reserved ↔ 20 ≤ rec.header.tc.toNat ∧ rec.header.tc.toNat ≤ 22) ∧
      (rec.variant = .test ↔ 23 ≤ rec.header.tc.toNat ∧ rec.header.tc.toNat ≤ 27) ∧
      (rec.variant = .extSquitter ↔ 28 ≤ rec.header.tc.toNat) ∧
      rec.variant ≠ .unknown ∧ ∃ F, loadFrame r = .ok F ∧ rec.header.tc = field F 32 37

/-- 30_encoding.md R77: no type code is illegal. Whatever the frame, its request is answered with a record; type codes 20 to 22
give a RESERVED record, 23 to 27 a TEST record and 28 to 31 an EXT_SQUITTER record, each with header and identification only. -/
def Obligations.NoTypeCodeIsIllegal : Prop :=
  ∀ (s : State) (F : Frame) (rest : List HostEvent) (q : List Request), Runs s (frameRequest F) rest q →
    ∃ rec : Record, step s = .next (answered s rest q (.ok rec)) ∧
      (20 ≤ (field F 32 37).toNat → (field F 32 37).toNat ≤ 22 → rec = .reserved rec.header) ∧
      (23 ≤ (field F 32 37).toNat → (field F 32 37).toNat ≤ 27 → rec = .test rec.header) ∧
      (28 ≤ (field F 32 37).toNat → rec = .extSquitter rec.header)

/-- 42_type_code_dispatch.md R182, 10_state.md R26, R204: a step gives at most one response; it never has STATUS 3, and never a
record of kind UNKNOWN. -/
def Obligations.NoStatusThreeAndNoUnknown : Prop :=
  ∀ s t : State, step s = .next t → t.given = s.given ∨ ∃ resp : Response, t.given = s.given ++ [resp] ∧ resp.status ≠ 3 ∧
    ∀ rec, resp = .ok rec → rec.variant ≠ .unknown ∧ rec.header.kind.code.toNat ≤ 7

/-! ## The rows: each completes, with its record, and changes nothing else

The header clauses rest on the spec's choices D6 (kind codes), D9, D10 (alphabet), D11 (trimming), D12 and D15 (descriptions). -/

/-- 42_type_code_dispatch.md R174: row TC0.NOPOS answers a NOPOS record: header and identification. -/
def Obligations.NoposRowAnswersNoposRecord : Prop :=
  ∀ (o : PlainOps) (s : State), ∃ h,
    HeaderOf h .nopos 0 "TCAS/no-position (degenerate)" 0 o.icao o.idp ∧ Answers (.tc0Nopos o) s (.nopos h)

/-- 42_type_code_dispatch.md R175: rows TC1.IDENT to TC4.IDENT answer an IDENT record: header, identification, and the category as
it stands. -/
def Obligations.IdentRowsAnswerIdentRecord : Prop :=
  ∀ (o : IdentOps) (s : State) (p : BitVec 5 × Instr),
    p ∈ [(1, .tc1Ident o), (2, .tc2Ident o), (3, .tc3Ident o), (4, .tc4Ident o)] → ∃ h,
    HeaderOf h .ident 1 "Identification" p.1 o.icao o.idp ∧ Answers p.2 s (.ident h o.cat)

/-- 42_type_code_dispatch.md R176: rows TC5.SURFACE_POS to TC8.SURFACE_POS answer a SURFACE_POS record: header, identification, and
the position by R136's formulas (spec's choice D8), with no wrap-around. -/
def Obligations.SurfaceRowsAnswerSurfaceRecord : Prop :=
  ∀ (o : SurfaceOps) (s : State) (p : BitVec 5 × Instr),
    p ∈ [(5, .tc5SurfacePos o), (6, .tc6SurfacePos o), (7, .tc7SurfacePos o), (8, .tc8SurfacePos o)] → ∃ h pos,
    HeaderOf h .surfacePos 2 "Surface Position" p.1 o.icao o.idp ∧ Answers p.2 s (.surfacePos h pos) ∧
    pos.latQ17.toInt = 180 * (o.rlat.toNat : Int) - 11796480 ∧ pos.lonQ17.toInt = 360 * (o.rlon.toNat : Int) - 23592960

/-- 42_type_code_dispatch.md R177: rows TC9.AIRBORNE_POS to TC18.AIRBORNE_POS answer an AIRBORNE_POS record: header,
identification, the altitude by R142's formula (spec's choice D22 for its width) and the position by R136's (D8). -/
def Obligations.AirborneRowsAnswerAirborneRecord : Prop :=
  ∀ (o : AirborneOps) (s : State) (p : BitVec 5 × Instr),
    p ∈ [(9, .tc9AirbornePos o), (10, .tc10AirbornePos o), (11, .tc11AirbornePos o), (12, .tc12AirbornePos o),
      (13, .tc13AirbornePos o), (14, .tc14AirbornePos o), (15, .tc15AirbornePos o), (16, .tc16AirbornePos o),
      (17, .tc17AirbornePos o), (18, .tc18AirbornePos o)] → ∃ h alt pos,
    HeaderOf h .airbornePos 3 "Airborne Position w/ Altitude" p.1 o.icao o.idp ∧ Answers p.2 s (.airbornePos h alt pos) ∧
    (alt.toNat : Int) = max 0 (25 * (o.altc.toNat : Int) - 1000) ∧
    pos.latQ17.toInt = 180 * (o.rlat.toNat : Int) - 11796480 ∧ pos.lonQ17.toInt = 360 * (o.rlon.toNat : Int) - 23592960

/-- 42_type_code_dispatch.md R178: row TC19.AIRBORNE_VEL answers an AIRBORNE_VEL record: header, identification, and the speed as it
stands. -/
def Obligations.VelocityRowAnswersVelocityRecord : Prop :=
  ∀ (o : VelocityOps) (s : State), ∃ h,
    HeaderOf h .airborneVel 4 "Airborne Velocity" 19 o.icao o.idp ∧ Answers (.tc19AirborneVel o) s (.airborneVel h o.vraw)

/-- 42_type_code_dispatch.md R179: rows TC20.RESERVED to TC22.RESERVED answer a RESERVED record: header and identification. -/
def Obligations.ReservedRowsAnswerReservedRecord : Prop :=
  ∀ (o : PlainOps) (s : State) (p : BitVec 5 × Instr),
    p ∈ [(20, .tc20Reserved o), (21, .tc21Reserved o), (22, .tc22Reserved o)] → ∃ h,
    HeaderOf h .reserved 5 "Reserved" p.1 o.icao o.idp ∧ Answers p.2 s (.reserved h)

/-- 42_type_code_dispatch.md R180: rows TC23.TEST to TC27.TEST answer a TEST record: header and identification. -/
def Obligations.TestRowsAnswerTestRecord : Prop :=
  ∀ (o : PlainOps) (s : State) (p : BitVec 5 × Instr),
    p ∈ [(23, .tc23Test o), (24, .tc24Test o), (25, .tc25Test o), (26, .tc26Test o), (27, .tc27Test o)] → ∃ h,
    HeaderOf h .test 6 "Test Message" p.1 o.icao o.idp ∧ Answers p.2 s (.test h)

/-- 42_type_code_dispatch.md R181: rows TC28.EXT_SQUITTER to TC31.EXT_SQUITTER answer an EXT_SQUITTER record: header and
identification. -/
def Obligations.ExtSquitterRowsAnswerExtSquitterRecord : Prop :=
  ∀ (o : PlainOps) (s : State) (p : BitVec 5 × Instr),
    p ∈ [(28, .tc28ExtSquitter o), (29, .tc29ExtSquitter o), (30, .tc30ExtSquitter o), (31, .tc31ExtSquitter o)] → ∃ h,
    HeaderOf h .extSquitter 7 "Extended Squitter" p.1 o.icao o.idp ∧ Answers p.2 s (.extSquitter h)

/-! ## The payloads, over all rows -/

/-- 41_field_decoders.md R131: the category is the three bits after the type code, as they stand, and only IDENT records carry
it. -/
def Obligations.CategoryOnlyInIdentRecords : Prop :=
  ∀ (i : Instr) (s : State), ∃ rec : Record, Answers i s rec ∧
    (1 ≤ i.layout.tc.toNat ∧ i.layout.tc.toNat ≤ 4 → rec.cat? = some i.layout.low3) ∧
    (i.layout.tc.toNat = 0 ∨ 5 ≤ i.layout.tc.toNat → rec.cat? = none)

/-- 41_field_decoders.md R144, R145: the velocity is the ten payload bits [13,23) read as an unsigned number of knots, with no offset
or scale, and only AIRBORNE_VEL records carry it. -/
def Obligations.VelocityIsRawMagnitude : Prop :=
  ∀ (i : Instr) (s : State), i.wf = true → ∃ rec : Record, Answers i s rec ∧
    (i.layout.tc.toNat = 19 → ∃ v, rec.velKt? = some v ∧ v.toNat = i.layout.idp.toNat / 2 ^ 25 % 2 ^ 10) ∧
    (i.layout.tc.toNat ≠ 19 → rec.velKt? = none)

/-- 41_field_decoders.md R142, R143: the altitude is 25 times the top twelve payload bits less 1000, clamped at zero, no bit of them
having a meaning of its own, and only AIRBORNE_POS records carry it. -/
def Obligations.AltitudeIsClampedLinear : Prop :=
  ∀ (i : Instr) (s : State), i.wf = true → ∃ rec : Record, Answers i s rec ∧
    (9 ≤ i.layout.tc.toNat ∧ i.layout.tc.toNat ≤ 18 → ∃ a, rec.altFt? = some a ∧
      (i.layout.idp.toNat / 2 ^ 36 ≤ 40 → a.toNat = 0) ∧
      (40 < i.layout.idp.toNat / 2 ^ 36 → a.toNat + 1000 = 25 * (i.layout.idp.toNat / 2 ^ 36))) ∧
    (i.layout.tc.toNat ≤ 8 ∨ 19 ≤ i.layout.tc.toNat → rec.altFt? = none)

/-- 41_field_decoders.md R136, 60_exceptions.md R203 (spec's choices D8, D14): every record of type codes 5 to 18 carries both
position fields, by R136's formulas on the payload bits [14,31) and [31,48), and no other record carries either. -/
def Obligations.PositionAlwaysPresentAndLinear : Prop :=
  ∀ (i : Instr) (s : State), i.wf = true → ∃ rec : Record, Answers i s rec ∧
    (5 ≤ i.layout.tc.toNat ∧ i.layout.tc.toNat ≤ 18 → ∃ pos, rec.pos? = some pos ∧
      pos.latQ17.toInt = 180 * ((i.layout.idp.toNat / 2 ^ 17 % 2 ^ 17 : Nat) : Int) - 11796480 ∧
      pos.lonQ17.toInt = 360 * ((i.layout.idp.toNat % 2 ^ 17 : Nat) : Int) - 23592960) ∧
    (i.layout.tc.toNat ≤ 4 ∨ 19 ≤ i.layout.tc.toNat → rec.pos? = none)

/-- 41_field_decoders.md R139, R140: surface and airborne rows decode the same position codes to the same position. -/
def Obligations.SurfaceAndAirborneShareOnePositionRoutine : Prop :=
  ∀ (a : SurfaceOps) (b : AirborneOps) (s : State) (i j : Instr), a.rlat = b.rlat → a.rlon = b.rlon →
    i ∈ [.tc5SurfacePos a, .tc6SurfacePos a, .tc7SurfacePos a, .tc8SurfacePos a] →
    j ∈ [.tc9AirbornePos b, .tc10AirbornePos b, .tc11AirbornePos b, .tc12AirbornePos b, .tc13AirbornePos b, .tc14AirbornePos b,
      .tc15AirbornePos b, .tc16AirbornePos b, .tc17AirbornePos b, .tc18AirbornePos b] →
    ∃ (p : Position) (rec rec' : Record), Answers i s rec ∧ Answers j s rec' ∧ rec.pos? = some p ∧ rec'.pos? = some p

/-- 41_field_decoders.md R138: latitude and longitude stay in their half-open intervals, the lower bound is attained exactly at code
zero, code 65536 is exactly zero, and both are strictly increasing. -/
def Obligations.PositionIsBoundedAndIncreasing : Prop :=
  (∀ rlat rlon : BitVec 17, -(90 * 2 ^ 17) ≤ (posDecode rlat rlon).latQ17.toInt ∧ (posDecode rlat rlon).latQ17.toInt ≤ 90 * 2 ^ 17 - 180 ∧
    -(180 * 2 ^ 17) ≤ (posDecode rlat rlon).lonQ17.toInt ∧ (posDecode rlat rlon).lonQ17.toInt ≤ 180 * 2 ^ 17 - 360) ∧
  (posDecode 0 0).latQ17.toInt = -(90 * 2 ^ 17) ∧ (posDecode 0 0).lonQ17.toInt = -(180 * 2 ^ 17) ∧
  (posDecode 65536 65536).latQ17.toInt = 0 ∧ (posDecode 65536 65536).lonQ17.toInt = 0 ∧
  (∀ a b c : BitVec 17, a < b → (posDecode a c).latQ17.toInt < (posDecode b c).latQ17.toInt ∧
    (posDecode c a).lonQ17.toInt < (posDecode c b).lonQ17.toInt)

/-- 41_field_decoders.md R133: every record, of every kind, carries the identification string: the eight 6-bit groups of bits [40,88),
first group first, each looked up in the table, and the result trimmed. -/
def Obligations.IdentificationIsTrimmedLookup : Prop :=
  ∀ (s : State) (r : Request) (rest : List HostEvent) (q : List Request) (F : Frame), Runs s r rest q → loadFrame r = .ok F →
    ∃ rec : Record, step s = .next (answered s rest q (.ok rec)) ∧
      rec.header.idChars = trim [romIdChar (field F 40 46), romIdChar (field F 46 52), romIdChar (field F 52 58),
        romIdChar (field F 58 64), romIdChar (field F 64 70), romIdChar (field F 70 76), romIdChar (field F 76 82),
        romIdChar (field F 82 88)]

/-- 41_field_decoders.md R132 (spec's choices D9, D10): the identification alphabet, index by index. -/
def Obligations.IdentificationAlphabet : Prop :=
  ∀ k : BitVec 6, idAlphabet[k.toNat]? = some (romIdChar k)

/-- 41_field_decoders.md R134 (spec's choice D11): trim removes the leading and trailing blanks of any string and nothing else, and
leaves a string without any as it is. -/
def Obligations.TrimRemovesOuterBlanksOnly : Prop :=
  (∀ raw : List Byte, IsTrimOf raw (trim raw)) ∧ ∀ raw id : List Byte, IsTrimOf raw id → id = trim raw

/-- 30_encoding.md R72, 40_hex_and_frame.md R110: bits [0,8) and [88,112), and bits [37,40) where the type code is not 1 to 4, never
affect a response. -/
def Obligations.UnreadBitsNeverAffectResponse : Prop :=
  ∀ (s₁ s₂ : State) (r₁ r₂ : Request) (rest₁ rest₂ : List HostEvent) (q₁ q₂ : List Request)
    (F₁ F₂ : Frame), Runs s₁ r₁ rest₁ q₁ → Runs s₂ r₂ rest₂ q₂ → loadFrame r₁ = .ok F₁ → loadFrame r₂ = .ok F₂ →
    field F₁ 8 37 = field F₂ 8 37 → field F₁ 40 88 = field F₂ 40 88 →
    (1 ≤ (field F₁ 32 37).toNat → (field F₁ 32 37).toNat ≤ 4 → field F₁ 37 40 = field F₂ 37 40) →
    ∃ rec : Record, step s₁ = .next (answered s₁ rest₁ q₁ (.ok rec)) ∧ step s₂ = .next (answered s₂ rest₂ q₂ (.ok rec))

/-! ## The response port -/

/-- 10_state.md R27, 70_reset_and_hazards.md R234, R238, 93_implementation_defined.md I8, I9 (spec's choice D7; the host's read as a
step is log 8): whatever is in progress, a read is of the response presented now. It passes, with no effect, where a record is presented whose variant carries the field, and gives that record's
own field; it faults by name where the response is an error and where the variant lacks the field. Before the first response it passes
and gives the zero that the port then reads as (10_state.md R33, spec's choice D19; the 29 bytes of the description are log 12). -/
def Obligations.ReadsOfAbsentFieldsFault : Prop :=
  ∀ (s : State) (f : RecField) (rest : List HostEvent), s.inputs = .read f :: rest →
    (s.presented = none → step s = .next { s with inputs := rest } ∧ readField f s = .next (unansweredValue f)) ∧
    (∀ e, s.presented = some (.error e) → step s = .fault .readOfErrorResponse) ∧
    (∀ rec, s.presented = some (.ok rec) → carries rec.variant f = true →
      step s = .next { s with inputs := rest } ∧ ∃ v, readField f s = .next v ∧ HasField rec v f) ∧
    (∀ rec, s.presented = some (.ok rec) → carries rec.variant f = false → step s = .fault .readOfAbsentField)

/-- 10_state.md R27, R28, 41_field_decoders.md R135 (spec's choices D7, D12): on the flat port of an answered request, STATUS is 0 exactly
for a record; then each field the record carries is that record's own, left-justified where it is a string, the payload fields its variant
lacks are zero, and the identification bytes from `id_len` on are 0x00. Of an error all fields are zero (that the description port has 29
bytes is log 12). -/
def Obligations.FlatPortDrivesAbsentFieldsToZero : Prop :=
  ∀ (s t : State) (r : Request) (rest : List HostEvent) (q : List Request), Runs s r rest q → step s = .next t →
    (t.flatPort.status = 0 → ∃ rec, t.presented = some (.ok rec) ∧
      (t.flatPort.icao = rec.header.icao ∧ t.flatPort.icaoHex = rec.header.icaoHex ∧ t.flatPort.tc = rec.header.tc ∧
        t.flatPort.kind = rec.header.kind.code ∧ t.flatPort.idLen = rec.header.idLen ∧
        t.flatPort.description.take rec.header.description.length = rec.header.description) ∧
      (∀ h cat, rec = .ident h cat → t.flatPort.cat = cat) ∧
      (∀ h pos, rec = .surfacePos h pos → t.flatPort.latQ17 = pos.latQ17 ∧ t.flatPort.lonQ17 = pos.lonQ17) ∧
      (∀ h alt pos, rec = .airbornePos h alt pos →
        t.flatPort.altFt = alt ∧ t.flatPort.latQ17 = pos.latQ17 ∧ t.flatPort.lonQ17 = pos.lonQ17) ∧
      (∀ h vel, rec = .airborneVel h vel → t.flatPort.velKt = vel) ∧
      (carries rec.variant .cat = false → t.flatPort.cat = 0) ∧
      (carries rec.variant .latQ17 = false → t.flatPort.latQ17 = 0) ∧ (carries rec.variant .lonQ17 = false → t.flatPort.lonQ17 = 0) ∧
      (carries rec.variant .altFt = false → t.flatPort.altFt = 0) ∧ (carries rec.variant .velKt = false → t.flatPort.velKt = 0) ∧
      t.flatPort.idChars.length = 8 ∧ t.flatPort.idChars.take t.flatPort.idLen.toNat = rec.header.idChars ∧
      ∀ j < 8, t.flatPort.idLen.toNat ≤ j → t.flatPort.idChars[j]? = some 0) ∧
    (t.flatPort.status ≠ 0 → (∃ e, t.presented = some (.error e)) ∧
      t.flatPort = { State.reset.flatPort with status := t.flatPort.status })
end

