-- ==== Sys2Proof/Laws/Decode.lean ====
section
/-! SUPPORT. What the front end can answer: the hex tables, the expansion, the frame register and the slicer. -/

namespace Sys2Proof

/-! ## Hex digits -/

@[simp] theorem hexDigits_nil : hexDigits [] = some [] := rfl

theorem hexDigits_cons {c : Byte} {cs : Request} {ds : List Nibble} :
    hexDigits (c :: cs) = some ds ↔ ∃ d es, romHexVal c = some d ∧ hexDigits cs = some es ∧ ds = d :: es := by
  cases hc : romHexVal c <;> cases hs : hexDigits cs <;> simp [hexDigits, hc, hs, eq_comm]

/-- HEX_CHECK passes exactly when every character is a digit, and then finds every digit's value in order. -/
theorem hexDigits_eq_some {r : Request} {ds : List Nibble} : hexDigits r = some ds ↔ r.map romHexVal = ds.map some := by
  induction r generalizing ds with
  | nil => cases ds <;> simp
  | cons c cs ih =>
    rw [hexDigits_cons]
    cases ds with
    | nil => simp
    | cons d es => simp [← ih]

theorem hexDigits_isSome {r : Request} : (hexDigits r).isSome ↔ ∀ c ∈ r, romHexVal c ≠ none := by
  induction r with
  | nil => simp
  | cons c cs ih =>
    cases hc : romHexVal c <;> cases hs : hexDigits cs <;> simp_all [hexDigits]

theorem hexDigits_length {r : Request} {ds : List Nibble} (h : hexDigits r = some ds) : ds.length = r.length := by
  simpa using (congrArg List.length (hexDigits_eq_some.1 h)).symm

theorem romHexVal_romHexDigit : ∀ d : Nibble, romHexVal (romHexDigit d) = some d := by decide

/-! ## Expansion -/

theorem length_digitBits (ds : List Nibble) : (ds.flatMap digitBits).length = 4 * ds.length := by
  induction ds with
  | nil => rfl
  | cons d ds ih => simp [ih, digitBits]; omega

theorem hex2bits_length {r : Request} {bs : Bits} (h : hex2bits r = some bs) : bs.length = 4 * r.length := by
  obtain ⟨ds, hd, rfl⟩ := Option.map_eq_some_iff.1 h
  rw [length_digitBits, hexDigits_length hd]

theorem hex2bits_eq_none {r : Request} : hex2bits r = none ↔ ∃ c ∈ r, romHexVal c = none := by
  have := @hexDigits_isSome r
  cases h : hexDigits r <;> simp_all [hex2bits]

theorem digitBits_ofBits : ∀ b0 b1 b2 b3 : Bool, digitBits (BitVec.ofNat 4 (bitsToNat [b0, b1, b2, b3])) = [b0, b1, b2, b3] := by
  decide

theorem ofBits_digitBits : ∀ d : Nibble, BitVec.ofNat 4 (bitsToNat (digitBits d)) = d := by decide

/-- BITS2HEX of whole nibbles is a request, and expanding it gives the bits back. -/
theorem hex2bits_bits2hex : ∀ bs : Bits, 4 ∣ bs.length → hex2bits (bits2hex bs) = some bs
  | [], _ => rfl
  | [_], h | [_, _], h | [_, _, _], h => by simp at h
  | b0 :: b1 :: b2 :: b3 :: rest, h => by
    have ih := hex2bits_bits2hex rest (by simpa [Nat.dvd_add_self_right] using h)
    obtain ⟨ds, hd, hr⟩ := Option.map_eq_some_iff.1 ih
    simp [hex2bits, bits2hex, hexDigits, romHexVal_romHexDigit, hd, hr, digitBits_ofBits]

theorem length_bits2hex : ∀ bs : Bits, 4 ∣ bs.length → 4 * (bits2hex bs).length = bs.length
  | [], _ => rfl
  | [_], h | [_, _], h | [_, _, _], h => by simp at h
  | _ :: _ :: _ :: _ :: rest, h => by
    have ih := length_bits2hex rest (by simpa [Nat.dvd_add_self_right] using h)
    simp [bits2hex]; omega

/-! ## The value of a bit string -/

theorem foldl_bits (bs : Bits) (n : Nat) :
    bs.foldl (fun n b => 2 * n + b.toNat) n = n * 2 ^ bs.length + bitsToNat bs := by
  induction bs generalizing n with
  | nil => simp [bitsToNat]
  | cons b bs ih =>
    have hb : bitsToNat (b :: bs) = (2 * 0 + b.toNat) * 2 ^ bs.length + bitsToNat bs := ih _
    rw [List.foldl_cons, ih, hb, List.length_cons, pow_succ]; ring

theorem bitsToNat_append (as bs : Bits) : bitsToNat (as ++ bs) = bitsToNat as * 2 ^ bs.length + bitsToNat bs := by
  rw [bitsToNat, List.foldl_append, foldl_bits, ← bitsToNat]

@[simp] theorem bitsToNat_nil : bitsToNat [] = 0 := rfl

theorem bitsToNat_cons (b : Bool) (bs : Bits) : bitsToNat (b :: bs) = b.toNat * 2 ^ bs.length + bitsToNat bs := by
  simpa [bitsToNat] using bitsToNat_append [b] bs

theorem bitsToNat_lt (bs : Bits) : bitsToNat bs < 2 ^ bs.length := by
  induction bs with
  | nil => simp
  | cons b bs ih => rw [bitsToNat_cons, List.length_cons, pow_succ]; cases b <;> simp <;> omega

/-- Bit `i` of a string, counted from the front, is bit `length - 1 - i` of its value. -/
theorem testBit_bitsToNat (bs : Bits) (i : Nat) (h : i < bs.length) :
    (bitsToNat bs).testBit (bs.length - 1 - i) = bs[i] := by
  induction bs generalizing i with
  | nil => simp at h
  | cons b bs ih =>
    have hlt := bitsToNat_lt bs
    rw [bitsToNat_cons, Nat.mul_comm, Nat.testBit_two_pow_mul_add _ hlt]
    cases i with
    | zero => cases b <;> simp
    | succ i =>
      have hi : i < bs.length := by simpa using h
      rw [if_pos (by simp; omega)]
      simpa [Nat.sub_sub, Nat.add_comm] using ih i hi

/-- FRAME_LOAD keeps every bit in its place. -/
theorem frameLoad_getLsbD {bs : Bits} (h : bs.length = 112) (i : Nat) (hi : i < 112) :
    (frameLoad bs).getLsbD (111 - i) = bs[i] := by
  have := testBit_bitsToNat bs i (h ▸ hi)
  simp only [h] at this
  rw [frameLoad, BitVec.getLsbD_ofNat, this]
  simp; omega

theorem frameLoad_frameBits (F : Frame) : frameLoad (frameBits F) = F := by
  apply BitVec.eq_of_getLsbD_eq
  intro i hi
  have := frameLoad_getLsbD (bs := frameBits F) (by simp [frameBits]) (111 - i) (by omega)
  rw [show 111 - (111 - i) = i by omega] at this
  rw [this]
  simp [frameBits, BitVec.getMsbD, show 111 - i < 112 by omega, show 111 - (111 - i) = i by omega]

theorem frameBits_frameLoad {bs : Bits} (h : bs.length = 112) : frameBits (frameLoad bs) = bs := by
  apply List.ext_getElem (by simp [frameBits, h])
  intro i hi _
  have hi' : i < 112 := by simpa [frameBits] using hi
  have := frameLoad_getLsbD h i hi'
  simp [frameBits, BitVec.getMsbD, hi', this]

/-! ## What loading a request can answer -/

theorem loadFrame_ok {r : Request} {F : Frame} :
    loadFrame r = .ok F ↔ ∃ bs, hex2bits r = some bs ∧ bs.length = 112 ∧ F = frameLoad bs := by
  unfold loadFrame
  cases h : hex2bits r with
  | none => simp
  | some bs => by_cases hl : bs.length = 112 <;> simp [hl, eq_comm]

theorem loadFrame_invalidHexInput {r : Request} (h : ∃ c ∈ r, romHexVal c = none) :
    loadFrame r = .error .invalidHexInput := by
  simp [loadFrame, hex2bits_eq_none.2 h]

theorem loadFrame_invalidFrameLength {r : Request} (h : ∀ c ∈ r, romHexVal c ≠ none) (hl : r.length ≠ 28) :
    loadFrame r = .error .invalidFrameLength := by
  cases hb : hex2bits r with
  | none => obtain ⟨c, hc, hn⟩ := hex2bits_eq_none.1 hb; exact absurd hn (h c hc)
  | some bs =>
    have := hex2bits_length hb
    simp [loadFrame, hb, show bs.length ≠ 112 by omega]

theorem loadFrame_isOk {r : Request} (h : ∀ c ∈ r, romHexVal c ≠ none) (hl : r.length = 28) :
    ∃ F, loadFrame r = .ok F := by
  cases hb : hex2bits r with
  | none => obtain ⟨c, hc, hn⟩ := hex2bits_eq_none.1 hb; exact absurd hn (h c hc)
  | some bs =>
    have := hex2bits_length hb
    exact ⟨_, loadFrame_ok.2 ⟨bs, hb, by omega, rfl⟩⟩

/-- The canonical request of a frame loads that frame. -/
theorem loadFrame_frameRequest (F : Frame) : loadFrame (frameRequest F) = .ok F :=
  loadFrame_ok.2 ⟨frameBits F, hex2bits_bits2hex _ (by simp [frameBits]), by simp [frameBits], (frameLoad_frameBits F).symm⟩

theorem decode_eq {r : Request} : decode r = (loadFrame r).map decodeFrame := rfl

theorem decode_ok {r : Request} {i : Instr} : decode r = .ok i ↔ ∃ F, loadFrame r = .ok F ∧ i = decodeFrame F := by
  unfold decode
  cases h : loadFrame r <;> simp [Except.map, eq_comm]

/-! ## The bit groups of a laid-out row -/

section layout

variable (t : BitVec 5)

@[simp] theorem plainOps_layout_x0 (o : PlainOps) : (o.layout t).x0 = o.x0 := rfl
@[simp] theorem plainOps_layout_icao (o : PlainOps) : (o.layout t).icao = o.icao := rfl
@[simp] theorem plainOps_layout_tc (o : PlainOps) : (o.layout t).tc = t := rfl
@[simp] theorem plainOps_layout_low3 (o : PlainOps) : (o.layout t).low3 = o.x37 := rfl
@[simp] theorem plainOps_layout_idp (o : PlainOps) : (o.layout t).idp = o.idp := rfl
@[simp] theorem plainOps_layout_x88 (o : PlainOps) : (o.layout t).x88 = o.x88 := rfl
@[simp] theorem identOps_layout_x0 (o : IdentOps) : (o.layout t).x0 = o.x0 := rfl
@[simp] theorem identOps_layout_icao (o : IdentOps) : (o.layout t).icao = o.icao := rfl
@[simp] theorem identOps_layout_tc (o : IdentOps) : (o.layout t).tc = t := rfl
@[simp] theorem identOps_layout_low3 (o : IdentOps) : (o.layout t).low3 = o.cat := rfl
@[simp] theorem identOps_layout_idp (o : IdentOps) : (o.layout t).idp = o.idp := rfl
@[simp] theorem identOps_layout_x88 (o : IdentOps) : (o.layout t).x88 = o.x88 := rfl
@[simp] theorem surfaceOps_layout_x0 (o : SurfaceOps) : (o.layout t).x0 = o.x0 := rfl
@[simp] theorem surfaceOps_layout_icao (o : SurfaceOps) : (o.layout t).icao = o.icao := rfl
@[simp] theorem surfaceOps_layout_tc (o : SurfaceOps) : (o.layout t).tc = t := rfl
@[simp] theorem surfaceOps_layout_low3 (o : SurfaceOps) : (o.layout t).low3 = o.x37 := rfl
@[simp] theorem surfaceOps_layout_idp (o : SurfaceOps) : (o.layout t).idp = o.idp := rfl
@[simp] theorem surfaceOps_layout_x88 (o : SurfaceOps) : (o.layout t).x88 = o.x88 := rfl
@[simp] theorem airborneOps_layout_x0 (o : AirborneOps) : (o.layout t).x0 = o.x0 := rfl
@[simp] theorem airborneOps_layout_icao (o : AirborneOps) : (o.layout t).icao = o.icao := rfl
@[simp] theorem airborneOps_layout_tc (o : AirborneOps) : (o.layout t).tc = t := rfl
@[simp] theorem airborneOps_layout_low3 (o : AirborneOps) : (o.layout t).low3 = o.x37 := rfl
@[simp] theorem airborneOps_layout_idp (o : AirborneOps) : (o.layout t).idp = o.idp := rfl
@[simp] theorem airborneOps_layout_x88 (o : AirborneOps) : (o.layout t).x88 = o.x88 := rfl
@[simp] theorem velocityOps_layout_x0 (o : VelocityOps) : (o.layout t).x0 = o.x0 := rfl
@[simp] theorem velocityOps_layout_icao (o : VelocityOps) : (o.layout t).icao = o.icao := rfl
@[simp] theorem velocityOps_layout_tc (o : VelocityOps) : (o.layout t).tc = t := rfl
@[simp] theorem velocityOps_layout_low3 (o : VelocityOps) : (o.layout t).low3 = o.x37 := rfl
@[simp] theorem velocityOps_layout_idp (o : VelocityOps) : (o.layout t).idp = o.idp := rfl
@[simp] theorem velocityOps_layout_x88 (o : VelocityOps) : (o.layout t).x88 = o.x88 := rfl

end layout

/-! ## The slicer on a frame made of bit groups -/

theorem field_toNat (F : Frame) (a b : Nat) : (field F a b).toNat = F.toNat / 2 ^ (112 - b) % 2 ^ (b - a) := by
  simp [field, BitVec.extractLsb'_toNat, Nat.shiftRight_eq_div_pow]

theorem toNat_append_eq {m n : Nat} (x : BitVec m) (y : BitVec n) : (x ++ y).toNat = x.toNat * 2 ^ n + y.toNat := by
  rw [BitVec.toNat_append, ← Nat.shiftLeft_add_eq_or_of_lt y.isLt, Nat.shiftLeft_eq]

theorem pack_toNat (l : Layout) : l.pack.toNat = ((((l.x0.toNat * 2 ^ 24 + l.icao.toNat) * 2 ^ 5 + l.tc.toNat) * 2 ^ 3 +
    l.low3.toNat) * 2 ^ 48 + l.idp.toNat) * 2 ^ 24 + l.x88.toNat := by
  simp only [Layout.pack, toNat_append_eq]

variable (l : Layout)

@[simp] theorem field_pack_x0 : field l.pack 0 8 = l.x0 := by
  have h1 := l.icao.isLt; have h2 := l.tc.isLt; have h3 := l.low3.isLt; have h4 := l.idp.isLt; have h5 := l.x88.isLt
  apply BitVec.eq_of_toNat_eq
  rw [field_toNat, pack_toNat]; omega

@[simp] theorem field_pack_icao : field l.pack 8 32 = l.icao := by
  have h1 := l.icao.isLt; have h2 := l.tc.isLt; have h3 := l.low3.isLt; have h4 := l.idp.isLt; have h5 := l.x88.isLt
  apply BitVec.eq_of_toNat_eq
  rw [field_toNat, pack_toNat]; omega

@[simp] theorem field_pack_tc : field l.pack 32 37 = l.tc := by
  have h1 := l.icao.isLt; have h2 := l.tc.isLt; have h3 := l.low3.isLt; have h4 := l.idp.isLt; have h5 := l.x88.isLt
  apply BitVec.eq_of_toNat_eq
  rw [field_toNat, pack_toNat]; omega

@[simp] theorem field_pack_low3 : field l.pack 37 40 = l.low3 := by
  have h1 := l.icao.isLt; have h2 := l.tc.isLt; have h3 := l.low3.isLt; have h4 := l.idp.isLt; have h5 := l.x88.isLt
  apply BitVec.eq_of_toNat_eq
  rw [field_toNat, pack_toNat]; omega

@[simp] theorem field_pack_idp : field l.pack 40 88 = l.idp := by
  have h1 := l.icao.isLt; have h2 := l.tc.isLt; have h3 := l.low3.isLt; have h4 := l.idp.isLt; have h5 := l.x88.isLt
  apply BitVec.eq_of_toNat_eq
  rw [field_toNat, pack_toNat]; omega

@[simp] theorem field_pack_x88 : field l.pack 88 112 = l.x88 := by
  have h1 := l.icao.isLt; have h2 := l.tc.isLt; have h3 := l.low3.isLt; have h4 := l.idp.isLt; have h5 := l.x88.isLt
  apply BitVec.eq_of_toNat_eq
  rw [field_toNat, pack_toNat]; omega

/-- The fields inside the identification payload are slices of it (20_memory.md R53). -/
theorem field_in_idp (F : Frame) {a b : Nat} (ha : 40 ≤ a) (hab : a ≤ b) (hb : b ≤ 88) :
    field F a b = (field F 40 88).extractLsb' (88 - b) (b - a) := by
  ext i hi
  simp only [field, BitVec.getElem_extractLsb', BitVec.getLsbD_extractLsb']
  rw [decide_eq_true (show 88 - b + i < 88 - 40 by omega), Bool.true_and]
  congr 1; omega

end Sys2Proof
end

