-- ==== Sys2Proof/Laws/Operands.lean ====
section
/-! SUPPORT. The values the field decoders give, as integers and as strings. -/

namespace Sys2Proof.Machine

/-- No latitude wraps: the 25-bit field holds the exact integer. -/
@[simp] theorem posDecode_latQ17_toInt (rlat rlon : BitVec 17) :
    (posDecode rlat rlon).latQ17.toInt = 180 * (rlat.toNat : Int) - 11796480 := by
  have := rlat.isLt
  rw [posDecode, BitVec.toInt_ofInt, Int.bmod_eq_of_le] <;> omega

/-- No longitude wraps: the 26-bit field holds the exact integer. -/
@[simp] theorem posDecode_lonQ17_toInt (rlat rlon : BitVec 17) :
    (posDecode rlat rlon).lonQ17.toInt = 360 * (rlon.toNat : Int) - 23592960 := by
  have := rlon.isLt
  rw [posDecode, BitVec.toInt_ofInt, Int.bmod_eq_of_le] <;> omega

/-- No altitude is cut: the 17-bit field holds the clamped integer. -/
@[simp] theorem altDecode_toNat (altc : BitVec 12) : (altDecode altc).toNat = 25 * altc.toNat - 1000 := by
  have := altc.isLt
  have h : max 0 (25 * (altc.toNat : Int) - 1000) = ((25 * altc.toNat - 1000 : Nat) : Int) := by omega
  rw [altDecode, h, BitVec.ofInt_natCast, BitVec.toNat_ofNat]
  omega

/-! ## Strings -/

theorem length_icaoHex (icao : BitVec 24) : (icaoHex icao).length = 6 := rfl

theorem length_idRaw (idp : BitVec 48) : (idRaw idp).length = 8 := rfl

/-- Dropping leading blanks splits them off. -/
theorem replicate_append_dropWhile (bs : List Byte) :
    ∃ a, bs = List.replicate a blank ++ bs.dropWhile (· == blank) := by
  induction bs with
  | nil => exact ⟨0, rfl⟩
  | cons c cs ih =>
    by_cases h : c = blank
    · obtain ⟨a, ha⟩ := ih
      exact ⟨a + 1, by simpa [h, List.replicate_succ] using ha⟩
    · exact ⟨0, by simp [h]⟩

/-- What is left after dropping leading blanks does not begin with one. -/
theorem head?_dropWhile_blank (bs : List Byte) : (bs.dropWhile (· == blank)).head? ≠ some blank := by
  induction bs with
  | nil => simp
  | cons c cs ih =>
    by_cases h : c = blank
    · simpa [h] using ih
    · simp [h]

theorem length_trim_le (bs : List Byte) : (trim bs).length ≤ bs.length := by
  simp only [trim, List.length_reverse]
  exact ((List.dropWhile_sublist _).length_le.trans (by simp)).trans (List.dropWhile_sublist (p := (· == blank)) (l := bs)).length_le

theorem mem_of_mem_trim {c : Byte} {bs : List Byte} (h : c ∈ trim bs) : c ∈ bs := by
  simp only [trim, List.mem_reverse] at h
  have := (List.dropWhile_sublist _).mem h
  exact (List.dropWhile_sublist _).mem (by simpa using this)

theorem length_idDecode_le (idp : BitVec 48) : (idDecode idp).length ≤ 8 := length_trim_le _

/-! ## Strings on the flat port -/

@[simp] theorem length_padBytes (n : Nat) (bs : List Byte) : (padBytes n bs).length = n := by simp [padBytes]

/-- A string that fits stands at the left of its port. -/
theorem take_padBytes {n : Nat} {bs : List Byte} (h : bs.length ≤ n) : (padBytes n bs).take bs.length = bs := by
  rw [padBytes, List.take_take, Nat.min_eq_left h, List.take_left]

/-- A string as wide as its port fills it. -/
theorem padBytes_of_length {n : Nat} {bs : List Byte} (h : bs.length = n) : padBytes n bs = bs := by
  subst h
  exact List.take_left

/-- Behind the string the port is zero. -/
theorem getElem?_padBytes {n j : Nat} {bs : List Byte} (hj : j < n) (h : bs.length ≤ j) : (padBytes n bs)[j]? = some 0 := by
  rw [padBytes, List.getElem?_take_of_lt hj, List.getElem?_append_right h, List.getElem?_replicate_of_lt (by omega)]

/-- Every description fits its port. -/
theorem length_romDesc_le (kind : RecordKind) : (romDesc kind).length ≤ 29 := by
  cases kind <;> decide

/-! ## The header -/

variable (kind : RecordKind) (tc : BitVec 5) (icao : BitVec 24) (idp : BitVec 48)

@[simp] theorem header_icao : (header kind tc icao idp).icao = icao := rfl
@[simp] theorem header_icaoHex : (header kind tc icao idp).icaoHex = icaoHex icao := rfl
@[simp] theorem header_tc : (header kind tc icao idp).tc = tc := rfl
@[simp] theorem header_kind : (header kind tc icao idp).kind = kind := rfl
@[simp] theorem header_description : (header kind tc icao idp).description = romDesc kind := rfl
@[simp] theorem header_idChars : (header kind tc icao idp).idChars = idDecode idp := rfl

/-- `id_len` is the string's length: four bits hold it. -/
@[simp] theorem header_idLen_toNat : (header kind tc icao idp).idLen.toNat = (idDecode idp).length := by
  have := length_idDecode_le idp
  simp [header]; omega

end Sys2Proof.Machine
end

