-- ==== Sys2Proof/Laws/State.lean ====
section
/-! SUPPORT. One lemma per field and per update of State, so that no proof unfolds an update of the record. -/

namespace Sys2Proof.Machine

variable (r : Request) (rest : List HostEvent) (s : State) (resp : Response)

@[simp] theorem takeRequest_inputs : (takeRequest r rest s).inputs = rest := rfl
@[simp] theorem takeRequest_inProgress : (takeRequest r rest s).inProgress = s.inProgress ++ [r] := rfl
@[simp] theorem takeRequest_bits : (takeRequest r rest s).bits = s.bits := rfl
@[simp] theorem takeRequest_frame : (takeRequest r rest s).frame = s.frame := rfl
@[simp] theorem takeRequest_fields : (takeRequest r rest s).fields = s.fields := rfl
@[simp] theorem takeRequest_presented : (takeRequest r rest s).presented = s.presented := rfl
@[simp] theorem takeRequest_given : (takeRequest r rest s).given = s.given := rfl

@[simp] theorem loadWorking_inputs : (loadWorking r s).inputs = s.inputs := rfl
@[simp] theorem loadWorking_inProgress : (loadWorking r s).inProgress = s.inProgress := rfl
@[simp] theorem loadWorking_bits : (loadWorking r s).bits = hex2bits r := rfl
@[simp] theorem loadWorking_frame : (loadWorking r s).frame = (loadFrame r).toOption := rfl
@[simp] theorem loadWorking_fields : (loadWorking r s).fields = (loadFrame r).toOption.map slice := rfl
@[simp] theorem loadWorking_presented : (loadWorking r s).presented = s.presented := rfl
@[simp] theorem loadWorking_given : (loadWorking r s).given = s.given := rfl

@[simp] theorem respond_inputs : (respond resp s).inputs = s.inputs := rfl
@[simp] theorem respond_inProgress : (respond resp s).inProgress = s.inProgress.tail := rfl
@[simp] theorem respond_bits : (respond resp s).bits = none := rfl
@[simp] theorem respond_frame : (respond resp s).frame = none := rfl
@[simp] theorem respond_fields : (respond resp s).fields = none := rfl
@[simp] theorem respond_presented : (respond resp s).presented = some resp := rfl
@[simp] theorem respond_given : (respond resp s).given = s.given ++ [resp] := rfl

@[simp] theorem resetBlock_inputs : (resetBlock rest s).inputs = rest := rfl
@[simp] theorem resetBlock_inProgress : (resetBlock rest s).inProgress = [] := rfl
@[simp] theorem resetBlock_bits : (resetBlock rest s).bits = none := rfl
@[simp] theorem resetBlock_frame : (resetBlock rest s).frame = none := rfl
@[simp] theorem resetBlock_fields : (resetBlock rest s).fields = none := rfl
@[simp] theorem resetBlock_presented : (resetBlock rest s).presented = none := rfl
@[simp] theorem resetBlock_given : (resetBlock rest s).given = s.given := rfl

@[simp] theorem passEvent_inputs : (passEvent rest s).inputs = rest := rfl
@[simp] theorem passEvent_inProgress : (passEvent rest s).inProgress = s.inProgress := rfl
@[simp] theorem passEvent_bits : (passEvent rest s).bits = s.bits := rfl
@[simp] theorem passEvent_frame : (passEvent rest s).frame = s.frame := rfl
@[simp] theorem passEvent_fields : (passEvent rest s).fields = s.fields := rfl
@[simp] theorem passEvent_presented : (passEvent rest s).presented = s.presented := rfl
@[simp] theorem passEvent_given : (passEvent rest s).given = s.given := rfl

@[simp] theorem withFetchWord_inputs (nbits w : Nat) :
    (s.withFetchWord nbits w).inputs = .request (tableRequest nbits w) :: s.inputs := rfl
@[simp] theorem withFetchWord_inProgress (nbits w : Nat) : (s.withFetchWord nbits w).inProgress = [] := rfl
@[simp] theorem withFetchWord_given (nbits w : Nat) : (s.withFetchWord nbits w).given = s.given := rfl

@[simp] theorem respondOk_eq (rec : Record) : respondOk rec s = respond (.ok rec) s := rfl
@[simp] theorem raiseError_eq (e : DecodeError) : raiseError e s = respond (.error e) s := rfl

end Sys2Proof.Machine
end

