-- ==== Sys2Proof/Laws/Ops.lean ====
section
/-! SUPPORT. What each shared operation can do: an instruction, a transaction, a host event and a step. -/

namespace Sys2Proof.Machine

/-- Responding forgets the working values, so it does not matter whether they were loaded. -/
@[simp] theorem respond_loadWorking (resp : Response) (r : Request) (s : State) :
    respond resp (loadWorking r s) = respond resp s := rfl

/-- Whatever instruction runs, it responds with a record and does nothing else. -/
theorem exec_next (i : Instr) (s : State) : ∃ rec, exec i s = .next (respond (.ok rec) s) := by
  cases i <;> exact ⟨_, rfl⟩

theorem transact_error {r : Request} {e : DecodeError} (h : decode r = .error e) (s : State) :
    transact r s = .next (respond (.error e) s) := by
  simp [transact, h]

theorem transact_ok {r : Request} {i : Instr} (h : decode r = .ok i) (s : State) :
    transact r s = exec i (loadWorking r s) := by
  simp [transact, h]

/-- A transaction always completes, with one response. -/
theorem transact_next (r : Request) (s : State) : ∃ resp, transact r s = .next (respond resp s) := by
  cases h : decode r with
  | error e => exact ⟨_, transact_error h s⟩
  | ok i =>
    obtain ⟨rec, hr⟩ := exec_next i (loadWorking r s)
    exact ⟨.ok rec, by rw [transact_ok h, hr, respond_loadWorking]⟩

/-- A read passes in two cases only: no response is presented yet, or the presented record carries the field. -/
theorem readField_next {f : RecField} {s : State} {v : FieldValue} (h : readField f s = .next v) :
    (s.presented = none ∧ v = s.flatPort.field f) ∨ ∃ rec, s.presented = some (.ok rec) ∧ rec.field? f = some v := by
  unfold readField at h
  split at h
  · rename_i hp
    cases h
    exact .inl ⟨hp, rfl⟩
  · cases h
  · rename_i rec hp
    split at h
    · cases h
    · rename_i w hf
      cases h
      exact .inr ⟨rec, hp, hf⟩

/-- Before the first response every read passes. -/
theorem readField_none {s : State} (h : s.presented = none) (f : RecField) :
    readField f s = .next ((FlatPort.zeros 0).field f) := by
  simp [readField, State.flatPort, h]

@[simp] theorem admits_reference (r : Request) : admits .reference r = true := rfl

theorem admits_some {c : Config} {n : MaxLen} (h : c.inMaxLen = some n) (r : Request) :
    admits c r = decide (r.length ≤ n.val) := by
  simp [admits, h]

/-- Every instance can be given a frame, and every shorter request. -/
theorem admits_of_length_le (c : Config) {r : Request} (h : r.length ≤ 28) : admits c r = true := by
  unfold admits
  split
  · rfl
  · rename_i n _
    exact decide_eq_true (h.trans n.property)

/-- Answering the oldest request: a transaction, or nothing where none is in progress. -/
theorem answerOldest_cases (s : State) :
    (s.inProgress = [] ∧ answerOldest s = .next s) ∨ ∃ r q, s.inProgress = r :: q ∧ answerOldest s = transact r s := by
  cases h : s.inProgress with
  | nil => exact .inl ⟨rfl, by simp [answerOldest, h]⟩
  | cons r q => exact .inr ⟨r, q, rfl, by simp [answerOldest, h]⟩

theorem answerOldest_cons {s : State} {r : Request} {q : List Request} (h : s.inProgress = r :: q) :
    answerOldest s = transact r s := by
  simp [answerOldest, h]

/-- Everything a host event can do, where the step answers a next state. -/
theorem handleEvent_next {c : Config} {e : HostEvent} {rest : List HostEvent} {s t : State}
    (h : handleEvent c e rest s = .next t) :
    (∃ r, (e = .request r ∨ e = .requestChanged r r) ∧ transact r (takeRequest r rest s) = .next t) ∨
    (∃ r, e = .take r ∧ t = takeRequest r rest s) ∨
    (e = .wait ∧ answerOldest (passEvent rest s) = .next t) ∨
    (∃ f v, e = .read f ∧ readField f s = .next v ∧ t = passEvent rest s) ∨
    (e = .reset ∧ t = resetBlock rest s) := by
  cases e with
  | request r =>
    simp only [handleEvent] at h
    split at h
    · exact .inl ⟨r, .inl rfl, h⟩
    · cases h
  | take r =>
    simp only [handleEvent] at h
    split at h
    · cases h; exact .inr (.inl ⟨r, rfl, rfl⟩)
    · cases h
  | wait => exact .inr (.inr (.inl ⟨rfl, h⟩))
  | requestChanged a b =>
    simp only [handleEvent] at h
    split at h
    · cases h
    · rename_i hab
      obtain rfl : a = b := by simpa using hab
      split at h
      · exact .inl ⟨a, .inr rfl, h⟩
      · cases h
  | read f =>
    simp only [handleEvent] at h
    split at h
    · rename_i v hv
      cases h; exact .inr (.inr (.inr (.inl ⟨f, v, rfl, hv, rfl⟩)))
    · cases h
    · cases h
  | reset => cases h; exact .inr (.inr (.inr (.inr ⟨rfl, rfl⟩)))

/-- The configuration matters to a host event only where it admits a request or not. -/
theorem handleEvent_congr {c c' : Config} {e : HostEvent} {s : State}
    (h : ∀ r, e = .request r ∨ e = .take r ∨ e = .requestChanged r r → admits c r = admits c' r) (rest : List HostEvent) :
    handleEvent c e rest s = handleEvent c' e rest s := by
  cases e with
  | request r => simp only [handleEvent, h r (.inl rfl)]
  | take r => simp only [handleEvent, h r (.inr (.inl rfl))]
  | wait => rfl
  | requestChanged a b =>
    by_cases hab : a = b
    · subst hab
      simp only [handleEvent, h a (.inr (.inr rfl))]
    · simp [handleEvent, hab]
  | read f => rfl
  | reset => rfl

/-- An event that may fall now is handled by the step. -/
theorem stepWith_event (c : Config) {s : State} {e : HostEvent} {rest : List HostEvent} (hi : s.inputs = e :: rest)
    (h : overlaps e = true ∨ s.inProgress = []) : stepWith c s = handleEvent c e rest s := by
  rcases h with h | h <;> simp [stepWith, advance, hi, h]

/-- Before every other event the oldest request in progress is answered. -/
theorem stepWith_inProgress (c : Config) {s : State} {r : Request} {q : List Request} (h : s.inProgress = r :: q)
    (hi : ∀ e ∈ s.inputs.head?, overlaps e = false) : stepWith c s = transact r s := by
  cases hs : s.inputs with
  | nil => simp [stepWith, advance, hs, answerOldest_cons h]
  | cons e rest =>
    have he : overlaps e = false := hi e (by simp [hs])
    simp [stepWith, advance, hs, he, h, answerOldest_cons h]

/-- With no host event and no request in progress nothing happens. -/
theorem stepWith_idle (c : Config) {s : State} (h : s.inProgress = []) (hi : s.inputs = []) : stepWith c s = .next s := by
  simp [stepWith, advance, hi, answerOldest, h]

/-- Everything a step can do: handle the next host event, or answer the oldest request in progress. -/
theorem stepWith_cases (c : Config) (s : State) :
    (∃ e rest, s.inputs = e :: rest ∧ (overlaps e = true ∨ s.inProgress = []) ∧ stepWith c s = handleEvent c e rest s) ∨
    ((∀ e ∈ s.inputs.head?, overlaps e = false) ∧ stepWith c s = answerOldest s) := by
  cases hs : s.inputs with
  | nil => exact .inr ⟨by simp, by simp [stepWith, advance, hs]⟩
  | cons e rest =>
    by_cases h : overlaps e = true ∨ s.inProgress = []
    · exact .inl ⟨e, rest, rfl, h, stepWith_event c hs h⟩
    · have he : overlaps e = false := by simpa using fun h' => h (.inl h')
      have hp : s.inProgress ≠ [] := fun h' => h (.inr h')
      exact .inr ⟨by simpa using he, by simp [stepWith, advance, hs, he, hp]⟩

/-- The configuration matters to a step only where the host event that it handles is a request. -/
theorem stepWith_congr {c c' : Config} {s : State}
    (h : ∀ e ∈ s.inputs.head?, s.inProgress = [] ∨ overlaps e = true → ∀ r,
      e = .request r ∨ e = .take r ∨ e = .requestChanged r r → admits c r = admits c' r) :
    stepWith c s = stepWith c' s := by
  cases hi : s.inputs with
  | nil => simp [stepWith, advance, hi]
  | cons e rest =>
    by_cases hn : s.inProgress = [] ∨ overlaps e = true
    · rw [stepWith_event c hi hn.symm, stepWith_event c' hi hn.symm]
      exact handleEvent_congr (h e (by simp [hi]) hn) rest
    · obtain ⟨hp, ho⟩ := not_or.1 hn
      simp [stepWith, advance, hi, hp, ho]

end Sys2Proof.Machine
end

