-- ==== Sys2Proof/Laws/PerInstr.lean ====
section
/-! SUPPORT. The per-instruction family RoundTrip: the frame of a well-formed instruction decodes to it, one lemma for each
constructor. -/

namespace Sys2Proof.Laws.RoundTrip

/-- The frame of a well-formed instruction decodes to that instruction. -/
def Statement (i : Instr) : Prop := i.wf = true → decodeFrame (encodeFrame i) = i

/-- The decoder goes to the row of the type code that the encoder wrote. -/
theorem decodeFrame_encodeFrame (i : Instr) : decodeFrame (encodeFrame i) = rowOf i.layout.tc i.layout.pack := by
  rw [decodeFrame, encodeFrame, slice, field_pack_tc]

theorem slice_pack (l : Layout) : slice l.pack =
    { icao := l.icao, tc := l.tc, cat := l.low3, idp := l.idp, altc := l.idp.extractLsb' 36 12, vraw := l.idp.extractLsb' 25 10,
      rlat := l.idp.extractLsb' 17 17, rlon := l.idp.extractLsb' 0 17 } := by
  have h1 : field l.pack 40 52 = l.idp.extractLsb' 36 12 := by rw [field_in_idp] <;> simp
  have h2 : field l.pack 53 63 = l.idp.extractLsb' 25 10 := by rw [field_in_idp] <;> simp
  have h3 : field l.pack 54 71 = l.idp.extractLsb' 17 17 := by rw [field_in_idp] <;> simp
  have h4 : field l.pack 71 88 = l.idp.extractLsb' 0 17 := by rw [field_in_idp] <;> simp
  simp only [slice, h1, h2, h3, h4, field_pack_icao, field_pack_tc, field_pack_low3, field_pack_idp]

theorem plainOps_pack (tc : BitVec 5) (o : PlainOps) : plainOps (o.layout tc).pack = o := by
  simp only [plainOps, slice_pack, field_pack_x0, field_pack_low3, field_pack_x88, PlainOps.layout]

theorem identOps_pack (tc : BitVec 5) (o : IdentOps) : identOps (o.layout tc).pack = o := by
  simp only [identOps, slice_pack, field_pack_x0, field_pack_x88, IdentOps.layout]

theorem surfaceOps_pack (tc : BitVec 5) (o : SurfaceOps) (h : o.wf = true) : surfaceOps (o.layout tc).pack = o := by
  simp only [SurfaceOps.wf, Bool.and_eq_true, beq_iff_eq] at h
  simp only [surfaceOps, slice_pack, field_pack_x0, field_pack_low3, field_pack_x88, SurfaceOps.layout, ← h.1, ← h.2]

theorem airborneOps_pack (tc : BitVec 5) (o : AirborneOps) (h : o.wf = true) : airborneOps (o.layout tc).pack = o := by
  simp only [AirborneOps.wf, Bool.and_eq_true, beq_iff_eq] at h
  simp only [airborneOps, slice_pack, field_pack_x0, field_pack_low3, field_pack_x88, AirborneOps.layout, ← h.1.1, ← h.1.2, ← h.2]

theorem velocityOps_pack (tc : BitVec 5) (o : VelocityOps) (h : o.wf = true) : velocityOps (o.layout tc).pack = o := by
  simp only [VelocityOps.wf, beq_iff_eq] at h
  simp only [velocityOps, slice_pack, field_pack_x0, field_pack_low3, field_pack_x88, VelocityOps.layout, ← h]

theorem tc0Nopos (o : PlainOps) : Statement (.tc0Nopos o) := fun _ =>
  (decodeFrame_encodeFrame _).trans (congrArg Instr.tc0Nopos (plainOps_pack 0 o))

theorem tc1Ident (o : IdentOps) : Statement (.tc1Ident o) := fun _ =>
  (decodeFrame_encodeFrame _).trans (congrArg Instr.tc1Ident (identOps_pack 1 o))

theorem tc2Ident (o : IdentOps) : Statement (.tc2Ident o) := fun _ =>
  (decodeFrame_encodeFrame _).trans (congrArg Instr.tc2Ident (identOps_pack 2 o))

theorem tc3Ident (o : IdentOps) : Statement (.tc3Ident o) := fun _ =>
  (decodeFrame_encodeFrame _).trans (congrArg Instr.tc3Ident (identOps_pack 3 o))

theorem tc4Ident (o : IdentOps) : Statement (.tc4Ident o) := fun _ =>
  (decodeFrame_encodeFrame _).trans (congrArg Instr.tc4Ident (identOps_pack 4 o))

theorem tc5SurfacePos (o : SurfaceOps) : Statement (.tc5SurfacePos o) := fun h =>
  (decodeFrame_encodeFrame _).trans (congrArg Instr.tc5SurfacePos (surfaceOps_pack 5 o h))

theorem tc6SurfacePos (o : SurfaceOps) : Statement (.tc6SurfacePos o) := fun h =>
  (decodeFrame_encodeFrame _).trans (congrArg Instr.tc6SurfacePos (surfaceOps_pack 6 o h))

theorem tc7SurfacePos (o : SurfaceOps) : Statement (.tc7SurfacePos o) := fun h =>
  (decodeFrame_encodeFrame _).trans (congrArg Instr.tc7SurfacePos (surfaceOps_pack 7 o h))

theorem tc8SurfacePos (o : SurfaceOps) : Statement (.tc8SurfacePos o) := fun h =>
  (decodeFrame_encodeFrame _).trans (congrArg Instr.tc8SurfacePos (surfaceOps_pack 8 o h))

theorem tc9AirbornePos (o : AirborneOps) : Statement (.tc9AirbornePos o) := fun h =>
  (decodeFrame_encodeFrame _).trans (congrArg Instr.tc9AirbornePos (airborneOps_pack 9 o h))

theorem tc10AirbornePos (o : AirborneOps) : Statement (.tc10AirbornePos o) := fun h =>
  (decodeFrame_encodeFrame _).trans (congrArg Instr.tc10AirbornePos (airborneOps_pack 10 o h))

theorem tc11AirbornePos (o : AirborneOps) : Statement (.tc11AirbornePos o) := fun h =>
  (decodeFrame_encodeFrame _).trans (congrArg Instr.tc11AirbornePos (airborneOps_pack 11 o h))

theorem tc12AirbornePos (o : AirborneOps) : Statement (.tc12AirbornePos o) := fun h =>
  (decodeFrame_encodeFrame _).trans (congrArg Instr.tc12AirbornePos (airborneOps_pack 12 o h))

theorem tc13AirbornePos (o : AirborneOps) : Statement (.tc13AirbornePos o) := fun h =>
  (decodeFrame_encodeFrame _).trans (congrArg Instr.tc13AirbornePos (airborneOps_pack 13 o h))

theorem tc14AirbornePos (o : AirborneOps) : Statement (.tc14AirbornePos o) := fun h =>
  (decodeFrame_encodeFrame _).trans (congrArg Instr.tc14AirbornePos (airborneOps_pack 14 o h))

theorem tc15AirbornePos (o : AirborneOps) : Statement (.tc15AirbornePos o) := fun h =>
  (decodeFrame_encodeFrame _).trans (congrArg Instr.tc15AirbornePos (airborneOps_pack 15 o h))

theorem tc16AirbornePos (o : AirborneOps) : Statement (.tc16AirbornePos o) := fun h =>
  (decodeFrame_encodeFrame _).trans (congrArg Instr.tc16AirbornePos (airborneOps_pack 16 o h))

theorem tc17AirbornePos (o : AirborneOps) : Statement (.tc17AirbornePos o) := fun h =>
  (decodeFrame_encodeFrame _).trans (congrArg Instr.tc17AirbornePos (airborneOps_pack 17 o h))

theorem tc18AirbornePos (o : AirborneOps) : Statement (.tc18AirbornePos o) := fun h =>
  (decodeFrame_encodeFrame _).trans (congrArg Instr.tc18AirbornePos (airborneOps_pack 18 o h))

theorem tc19AirborneVel (o : VelocityOps) : Statement (.tc19AirborneVel o) := fun h =>
  (decodeFrame_encodeFrame _).trans (congrArg Instr.tc19AirborneVel (velocityOps_pack 19 o h))

theorem tc20Reserved (o : PlainOps) : Statement (.tc20Reserved o) := fun _ =>
  (decodeFrame_encodeFrame _).trans (congrArg Instr.tc20Reserved (plainOps_pack 20 o))

theorem tc21Reserved (o : PlainOps) : Statement (.tc21Reserved o) := fun _ =>
  (decodeFrame_encodeFrame _).trans (congrArg Instr.tc21Reserved (plainOps_pack 21 o))

theorem tc22Reserved (o : PlainOps) : Statement (.tc22Reserved o) := fun _ =>
  (decodeFrame_encodeFrame _).trans (congrArg Instr.tc22Reserved (plainOps_pack 22 o))

theorem tc23Test (o : PlainOps) : Statement (.tc23Test o) := fun _ =>
  (decodeFrame_encodeFrame _).trans (congrArg Instr.tc23Test (plainOps_pack 23 o))

theorem tc24Test (o : PlainOps) : Statement (.tc24Test o) := fun _ =>
  (decodeFrame_encodeFrame _).trans (congrArg Instr.tc24Test (plainOps_pack 24 o))

theorem tc25Test (o : PlainOps) : Statement (.tc25Test o) := fun _ =>
  (decodeFrame_encodeFrame _).trans (congrArg Instr.tc25Test (plainOps_pack 25 o))

theorem tc26Test (o : PlainOps) : Statement (.tc26Test o) := fun _ =>
  (decodeFrame_encodeFrame _).trans (congrArg Instr.tc26Test (plainOps_pack 26 o))

theorem tc27Test (o : PlainOps) : Statement (.tc27Test o) := fun _ =>
  (decodeFrame_encodeFrame _).trans (congrArg Instr.tc27Test (plainOps_pack 27 o))

theorem tc28ExtSquitter (o : PlainOps) : Statement (.tc28ExtSquitter o) := fun _ =>
  (decodeFrame_encodeFrame _).trans (congrArg Instr.tc28ExtSquitter (plainOps_pack 28 o))

theorem tc29ExtSquitter (o : PlainOps) : Statement (.tc29ExtSquitter o) := fun _ =>
  (decodeFrame_encodeFrame _).trans (congrArg Instr.tc29ExtSquitter (plainOps_pack 29 o))

theorem tc30ExtSquitter (o : PlainOps) : Statement (.tc30ExtSquitter o) := fun _ =>
  (decodeFrame_encodeFrame _).trans (congrArg Instr.tc30ExtSquitter (plainOps_pack 30 o))

theorem tc31ExtSquitter (o : PlainOps) : Statement (.tc31ExtSquitter o) := fun _ =>
  (decodeFrame_encodeFrame _).trans (congrArg Instr.tc31ExtSquitter (plainOps_pack 31 o))

end Sys2Proof.Laws.RoundTrip
end

