-- ==== Sys2Proof/Tests/Slice0.lean ====
section
/-! SUPPORT. Tests and witnesses. Expected results come from spec/95_test_vectors.md (its ids stand in the docstrings) or from
the encodings of spec/30_encoding.md. -/

namespace Sys2Proof.Tests

open Sys2Proof.Machine

/-- The block after reset, with one request presented. -/
def presenting (r : String) : State := { State.reset with inputs := [.request (ascii r)] }

/-- The block after reset, with one request taken and not answered. -/
def holding (r : String) : State := { State.reset with inProgress := [ascii r] }

/-- What is answered, where nothing stops. -/
def next? {α : Type} : Host.Outcome α Fault Refusal → Option α
  | .next a => some a
  | .fault _ => none
  | .refused _ => none

/-- What a step leaves on the response port. -/
def portAfter (s : State) : Option Response := (next? (step s)).bind State.presented

/-- The response to a request presented right after reset. -/
def answer (r : String) : Option Response := portAfter (presenting r)

/-- The record answered to a request, if it is one. -/
def record (r : String) : Option Record :=
  match answer r with
  | some (.ok rec) => some rec
  | _ => none

/-- Kind code, type code, ICAO digits and identification string of the record answered to a request. -/
def summary (r : String) : Option (Nat × Nat × List Byte × List Byte) :=
  (record r).map fun rec => (rec.variant.code.toNat, rec.header.tc.toNat, rec.header.icaoHex, rec.header.idChars)

/-- Latitude and longitude (times 2^17) of the record answered to a request. -/
def position (r : String) : Option (Int × Int) :=
  ((record r).bind Record.pos?).map fun p => (p.latQ17.toInt, p.lonQ17.toInt)

/-- The altitude of the record answered to a request. -/
def altitude (r : String) : Option Nat := ((record r).bind Record.altFt?).map BitVec.toNat

/-- The velocity of the record answered to a request. -/
def velocity (r : String) : Option Nat := ((record r).bind Record.velKt?).map BitVec.toNat

/-! ## WellFormed: each check refuses an ill-formed term -/

theorem test_wf_refuses_surface_latitude : (Instr.tc5SurfacePos ⟨0, 0, 0, 0, 1, 0, 0⟩).wf = false := by decide
theorem test_wf_refuses_surface_longitude : (Instr.tc8SurfacePos ⟨0, 0, 0, 1, 0, 0, 0⟩).wf = false := by decide
theorem test_wf_refuses_airborne_altitude : (Instr.tc9AirbornePos ⟨0, 0, 0, 0, 1, 0, 0, 0⟩).wf = false := by decide
theorem test_wf_refuses_airborne_latitude : (Instr.tc12AirbornePos ⟨0, 0, 0, 0x20000, 0, 0, 0, 0⟩).wf = false := by decide
theorem test_wf_refuses_airborne_longitude : (Instr.tc18AirbornePos ⟨0, 0, 0, 0, 0, 0, 1, 0⟩).wf = false := by decide
theorem test_wf_refuses_velocity : (Instr.tc19AirborneVel ⟨0, 0, 0, 0, 1, 0⟩).wf = false := by decide
theorem test_wf_takes_velocity : (Instr.tc19AirborneVel ⟨0, 0, 0, 0x000384000000, 450, 0⟩).wf = true := by decide

/-! ## Decode: words written out from 30_encoding.md R72 and R75 -/

theorem test_decode_nopos_row :
    decodeTableWord 112 0x8D00000000000000000000000000 = some (.tc0Nopos ⟨0x8D, 0, 0, 0, 0⟩) := by decide +kernel

/-- ID-1 is TC1, ID-3 is TC2, ID-4 is TC3, ID-7 is TC4. -/
theorem test_decode_ident_rows :
    [0x8D1234560D000000000000000000, 0x8D000001170010026E0000000000, 0x8D0000FF19841802FF0C5A000000,
      0x8D4840D6202CC371C32CE0576098].map (decodeTableWord 112) =
    [some (.tc1Ident ⟨0x8D, 0x123456, 5, 0, 0⟩), some (.tc2Ident ⟨0x8D, 0x000001, 7, 0x0010026E0000, 0⟩),
      some (.tc3Ident ⟨0x8D, 0x0000FF, 1, 0x841802FF0C5A, 0⟩), some (.tc4Ident ⟨0x8D, 0x4840D6, 0, 0x2CC371C32CE0, 0x576098⟩)] := by
  decide +kernel

/-- PO-5 is TC5, PO-2 TC6, PO-3 TC7, PO-1 TC8. -/
theorem test_decode_surface_rows :
    [0x8DA1B2C3280002D282527D000000, 0x8DA1B2C3300003FFFFFFFF000000, 0x8DA1B2C338000200010000000000,
      0x8DA1B2C340000000000000000000].map (decodeTableWord 112) =
    [some (.tc5SurfacePos ⟨0x8D, 0xA1B2C3, 0, 0x0002D282527D, 92481, 21117, 0⟩),
      some (.tc6SurfacePos ⟨0x8D, 0xA1B2C3, 0, 0x0003FFFFFFFF, 131071, 131071, 0⟩),
      some (.tc7SurfacePos ⟨0x8D, 0xA1B2C3, 0, 0x000200010000, 65536, 65536, 0⟩),
      some (.tc8SurfacePos ⟨0x8D, 0xA1B2C3, 0, 0, 0, 0, 0⟩)] := by
  decide +kernel

/-- AL-3 is TC9, AL-2 TC11, AL-5 TC12, AL-4 TC15, AL-1 TC18; the others are DI-10, DI-13, DI-14, DI-16, DI-17. -/
theorem test_decode_airborne_rows :
    [0x8D3C65864802900001FFFF000000, 0x8D00000050000000000000000000, 0x8D3C658658028200010000000000,
      0x8D3C658660FFF2D282527D000000, 0x8D00000068000000000000000000, 0x8D00000070000000000000000000,
      0x8D3C6586782A81579BFFFF000000, 0x8D00000080000000000000000000, 0x8D00000088000000000000000000,
      0x8D3C658690000000020001000000].map (decodeTableWord 112) =
    [some (.tc9AirbornePos ⟨0x8D, 0x3C6586, 0, 0x02900001FFFF, 41, 0, 131071, 0⟩), some (.tc10AirbornePos ⟨0x8D, 0, 0, 0, 0, 0, 0, 0⟩),
      some (.tc11AirbornePos ⟨0x8D, 0x3C6586, 0, 0x028200010000, 40, 65536, 65536, 0⟩),
      some (.tc12AirbornePos ⟨0x8D, 0x3C6586, 0, 0xFFF2D282527D, 4095, 92481, 21117, 0⟩),
      some (.tc13AirbornePos ⟨0x8D, 0, 0, 0, 0, 0, 0, 0⟩), some (.tc14AirbornePos ⟨0x8D, 0, 0, 0, 0, 0, 0, 0⟩),
      some (.tc15AirbornePos ⟨0x8D, 0x3C6586, 0, 0x2A81579BFFFF, 680, 43981, 131071, 0⟩),
      some (.tc16AirbornePos ⟨0x8D, 0, 0, 0, 0, 0, 0, 0⟩), some (.tc17AirbornePos ⟨0x8D, 0, 0, 0, 0, 0, 0, 0⟩),
      some (.tc18AirbornePos ⟨0x8D, 0x3C6586, 0, 0x000000020001, 0, 1, 1, 0⟩)] := by
  decide +kernel

/-- VE-2. -/
theorem test_decode_velocity_row :
    decodeTableWord 112 0x8D4B181498000384000000000000 = some (.tc19AirborneVel ⟨0x8D, 0x4B1814, 0, 0x000384000000, 450, 0⟩) := by
  decide +kernel

/-- DI-35, DI-21, DI-22. -/
theorem test_decode_reserved_rows :
    [0x8D111111A0000000000000000000, 0x8D000000A8000000000000000000, 0x8D000000B0000000000000000000].map (decodeTableWord 112) =
    [some (.tc20Reserved ⟨0x8D, 0x111111, 0, 0, 0⟩), some (.tc21Reserved ⟨0x8D, 0, 0, 0, 0⟩), some (.tc22Reserved ⟨0x8D, 0, 0, 0, 0⟩)] := by
  decide +kernel

/-- DI-23 to DI-26, DI-36. -/
theorem test_decode_test_rows :
    [0x8D000000B8000000000000000000, 0x8D000000C0000000000000000000, 0x8D000000C8000000000000000000, 0x8D000000D0000000000000000000,
      0x8D222222D8000000000000000000].map (decodeTableWord 112) =
    [some (.tc23Test ⟨0x8D, 0, 0, 0, 0⟩), some (.tc24Test ⟨0x8D, 0, 0, 0, 0⟩), some (.tc25Test ⟨0x8D, 0, 0, 0, 0⟩),
      some (.tc26Test ⟨0x8D, 0, 0, 0, 0⟩), some (.tc27Test ⟨0x8D, 0x222222, 0, 0, 0⟩)] := by
  decide +kernel

/-- DI-37, DI-29, DI-30, DI-33. -/
theorem test_decode_extSquitter_rows :
    [0x8D333333E0000000000000000000, 0x8D000000E8000000000000000000, 0x8D000000F0000000000000000000,
      0xFFFFFFFFFFFFFFFFFFFFFFFFFFFF].map (decodeTableWord 112) =
    [some (.tc28ExtSquitter ⟨0x8D, 0x333333, 0, 0, 0⟩), some (.tc29ExtSquitter ⟨0x8D, 0, 0, 0, 0⟩),
      some (.tc30ExtSquitter ⟨0x8D, 0, 0, 0, 0⟩), some (.tc31ExtSquitter ⟨0xFF, 0xFFFFFF, 7, 0xFFFFFFFFFFFF, 0xFFFFFF⟩)] := by
  decide +kernel

/-- IC-5: the canonical spelling is uppercase. -/
theorem test_encode_is_uppercase :
    encode (.tc4Ident ⟨0x8D, 0xABCDEF, 0, 0x0420C4146000, 0⟩) = ascii "8DABCDEF200420C4146000000000" := by decide +kernel

/-- HX-1, HX-2. -/
theorem test_hex_values :
    ((ascii "09AFaf").map romHexVal = [some 0, some 9, some 10, some 15, some 10, some 15]) ∧
    ((ascii "Gg x/:@`" ++ [0x00, 0x80, 0xFF]).map romHexVal = List.replicate 11 none) := by decide +kernel

/-- HX-3, HX-4, HX-7. -/
theorem test_hex2bits :
    hex2bits (ascii "8d") = some [true, false, false, false, true, true, false, true] ∧ hex2bits [] = some [] ∧
    bits2hex [false, false, false, false, true, true, true, true] = ascii "0F" := by decide +kernel

/-- EX-2 to EX-10. -/
theorem test_slices :
    slice 0x8D4840D6202CC371C32CE0576098 =
      { icao := 0x4840D6, tc := 4, cat := 0, idp := 0x2CC371C32CE0, altc := 0x2CC, vraw := 0x1B8, rlat := 0x1B8E1, rlon := 0x12CE0 } ∧
    (idGroups 0x2CC371C32CE0).map BitVec.toNat = [11, 12, 13, 49, 48, 50, 51, 32] := by decide +kernel

/-! ## Steps -/

/-- DI-32. -/
theorem test_step_nopos : summary "0000000000000000000000000000" = some (0, 0, ascii "000000", []) := by decide +kernel

/-- ID-7: the whole record. -/
theorem test_step_ident :
    record "8D4840D6202CC371C32CE0576098" =
      some (.ident ⟨0x4840D6, ascii "4840D6", 4, .ident, ascii "Identification", 7, ascii "KLM????"⟩ 0) := by decide +kernel

/-- ID-3 and ID-6: leading blanks go, inner blanks stay. -/
theorem test_step_identification_trim :
    summary "8D000001170010026E0000000000" = some (1, 2, ascii "000001", ascii "A B") ∧
    summary "8D3C658690000000020001000000" = some (3, 18, ascii "3C6586", ascii "A") := by decide +kernel

/-- PO-5 on both kinds. -/
theorem test_step_position :
    position "8DA1B2C3280002D282527D000000" = some (4850100, -15990840) ∧
    position "8D3C658660FFF2D282527D000000" = some (4850100, -15990840) := by decide +kernel

/-- L1-7. -/
theorem test_step_surface : summary "8DA1B2C3280002D282527D000000" = some (2, 5, ascii "A1B2C3", ascii "KR ?I?") := by decide +kernel

/-- AL-1 to AL-5. -/
theorem test_step_altitude :
    ["8D3C658690000000020001000000", "8D3C658658028200010000000000", "8D3C65864802900001FFFF000000",
      "8D3C6586782A81579BFFFF000000", "8D3C658660FFF2D282527D000000"].map altitude =
      [some 0, some 0, some 25, some 16000, some 101375] := by decide +kernel

/-- VE-1 to VE-3. -/
theorem test_step_velocity :
    ["8D4B181498000000000000000000", "8D4B181498000384000000000000", "8D4B1814980007FE000000000000"].map velocity =
      [some 0, some 450, some 1023] := by decide +kernel

/-- The boundary values of every range of 42_type_code_dispatch.md R171 (DI vectors): kind code and type code. -/
theorem test_step_dispatch_boundaries :
    ["00", "08", "20", "28", "40", "48", "90", "98", "A0", "B0", "B8", "D8", "E0", "F8"].map
      (fun b => (record ("8D000000" ++ b ++ "000000000000000000")).map fun rec => (rec.header.kind.code.toNat, rec.header.tc.toNat)) =
    [some (0, 0), some (1, 1), some (1, 4), some (2, 5), some (2, 8), some (3, 9), some (3, 18), some (4, 19), some (5, 20),
      some (5, 22), some (6, 23), some (6, 27), some (7, 28), some (7, 31)] := by decide +kernel

/-- ER-1, ER-2, ER-3, ER-4. -/
theorem test_step_invalid_length :
    ["8D4840D6202CC371C32CE057609", "8D4840D6202CC371C32CE05760980", "", "8D4840D6202CC3"].map answer =
      List.replicate 4 (some (.error .invalidFrameLength)) := by decide +kernel

/-- ER-6 to ER-10. -/
theorem test_step_invalid_hex :
    ["8D4840D6202CC371C32CE057609G", "8D4840D6202CC371C32CE05760 8", "0x8D4840D6202CC371C32CE05760", "G",
      "8D4840D6202CC371C32CE0576098 "].map answer = List.replicate 5 (some (.error .invalidHexInput)) := by decide +kernel

/-- A word runs as the first instruction after reset. -/
theorem test_fetchWord_runs_first :
    portAfter (State.reset.withFetchWord 112 0x8D4B181498000384000000000000) = answer "8D4B181498000384000000000000" := by
  decide +kernel

/-- AL-5 on the flat port of R28: every field in its own place, the strings padded, the fields of other kinds zero. -/
theorem test_flatPort :
    (answer "8D3C658660FFF2D282527D000000").map Response.flat = some
      { status := 0, icao := 0x3C6586, icaoHex := ascii "3C6586", tc := 12, kind := 3,
        description := ascii "Airborne Position w/ Altitude", idLen := 8, idChars := ascii "??KR ?I?", cat := 0,
        latQ17 := 4850100, lonQ17 := BitVec.ofInt 26 (-15990840), altFt := 101375, velKt := 0 } := by decide +kernel

/-- R238: with "G" still in progress, the host reads the record answered before it (VE-2's speed), and "G" stays in progress. -/
theorem test_read_while_in_progress :
    let s : State := { (holding "G") with inputs := [.read .velKt], presented := answer "8D4B181498000384000000000000" }
    next? (readField .velKt s) = some (.unsigned 450) ∧ next? (step s) = some { s with inputs := [] } := by decide +kernel

/-- R33: before the first response a port field reads as zero. -/
theorem test_read_before_response :
    readField .latQ17 State.reset = .next (.signed 0) ∧
    readField .idChars State.reset = .next (.chars [0, 0, 0, 0, 0, 0, 0, 0]) := ⟨rfl, rfl⟩

/-- P4: a reset that arrives while a request is in progress leaves no response on the port; waiting for it instead gives it. -/
theorem test_reset_abandons :
    portAfter { (holding "8DA1B2C3280002D282527D000000") with inputs := [.reset] } = none ∧
    portAfter { (holding "8DA1B2C3280002D282527D000000") with inputs := [.wait] } = answer "8DA1B2C3280002D282527D000000" := by
  decide +kernel

/-! ## Witnesses: states and operands that meet the hypotheses of the statements -/

theorem witness_runs_presented :
    Runs (presenting "8D4840D6202CC371C32CE0576098") (ascii "8D4840D6202CC371C32CE0576098") [] [] := .inl ⟨rfl, rfl, rfl⟩

theorem witness_runs_in_progress :
    Runs (holding "8D4840D6202CC371C32CE0576098") (ascii "8D4840D6202CC371C32CE0576098") [] [] := .inr (.inr ⟨rfl, rfl, by decide⟩)

/-- Two requests in progress, and the host waits for the first. -/
theorem witness_runs_wait :
    Runs { State.reset with inputs := [.wait, .reset], inProgress := [ascii "8D", ascii "G"] } (ascii "8D") [.reset] [ascii "G"] :=
  .inr (.inl ⟨rfl, rfl⟩)

/-- StepImplementsDecode and SameRequestSameResponse. -/
theorem witness_StepImplementsDecode : ∃ s r rest q, Runs s r rest q := ⟨_, _, _, _, witness_runs_presented⟩

/-- A read while a request is in progress. -/
theorem witness_SameRequestSameResponse_read : ∃ (s t : State) (f : RecField), s.inProgress = [ascii "G"] ∧ s.inputs = [.read f] ∧
    step s = .next t :=
  ⟨{ (holding "G") with inputs := [.read .cat], presented := some (.ok (.ident (header .ident 1 0 0) 5)) }, _, .cat, rfl, rfl, rfl⟩

/-- EveryStepKeepsInvariant: a state with a request, which a step answers. -/
theorem witness_EveryStepKeepsInvariant : ∃ s t, s.Inv ∧ stepWith .reference s = .next t ∧ t.given ≠ [] := by
  refine ⟨presenting "G", _, ⟨rfl, rfl, rfl, .inl rfl, ?_⟩, rfl, ?_⟩
  · intro resp h; cases h
  · intro h; cases h

theorem witness_StepRunsDecodedInstruction : ∃ s r rest q i F bits,
    Runs s r rest q ∧ hex2bits r = some bits ∧ loadFrame r = .ok F ∧ decode r = .ok i := by
  refine ⟨_, _, _, _, decodeFrame 0x8D4840D6202CC371C32CE0576098, 0x8D4840D6202CC371C32CE0576098,
    frameBits 0x8D4840D6202CC371C32CE0576098, witness_runs_presented, ?_, ?_, ?_⟩ <;> decide +kernel

theorem witness_IdleBlockStaysAsItIs : State.reset.inputs = [] ∧ State.reset.inProgress = [] := ⟨rfl, rfl⟩

/-- P4's events: one request answered, one taken and abandoned by a reset, one answered. -/
theorem witness_RunAnswersEveryRequestInOrder :
    ∃ s : State, (∀ e ∈ s.inputs, e.plain = true) ∧ answeredRequests s.inProgress s.inputs = [[], [0x48]] :=
  ⟨{ State.reset with inputs := [.request [], .take [0x47], .reset, .request [0x48]] }, by decide, rfl⟩

theorem witness_ResetAbandonsRequestsInProgress :
    ∃ s : State, s.inputs = [.reset] ∧ s.inProgress = [ascii "8D"] :=
  ⟨{ (holding "8D") with inputs := [.reset] }, rfl, rfl⟩

theorem witness_TakenRequestStaysInProgress : ∃ s : State, s.inputs = [.take (ascii "8D")] ∧ s.inProgress = [ascii "8E"] :=
  ⟨{ (holding "8E") with inputs := [.take (ascii "8D")] }, rfl, rfl⟩

theorem witness_ChangedRequestIsRefused_changed :
    ∃ (s : State) (a b : Request), s.inProgress = [] ∧ s.inputs = [.requestChanged a b] ∧ a ≠ b :=
  ⟨{ State.reset with inputs := [.requestChanged (ascii "8D") (ascii "8E")] }, _, _, rfl, rfl, by decide⟩

theorem witness_ChangedRequestIsRefused_same :
    ∃ (s : State) (a : Request), s.inProgress = [] ∧ s.inputs = [.requestChanged a a] :=
  ⟨{ State.reset with inputs := [.requestChanged (ascii "8D") (ascii "8D")] }, _, rfl, rfl⟩

/-- The smallest bound. -/
def bound28 : MaxLen := ⟨28, le_rfl⟩

/-- One character over the smallest bound, in each of the three forms of the clause. -/
theorem witness_BoundedInstanceRefusesOnlyLongRequests_over (r : Request) (h : r = ascii "8D4840D6202CC371C32CE05760980") :
    (Config.bounded bound28).inMaxLen = some bound28 ∧ bound28.val < r.length ∧ r.length = 29 ∧
    ∀ e ∈ [HostEvent.request r, .requestChanged r r, .take r], ∃ s : State, s.inProgress = [] ∧ s.inputs = [e] :=
  ⟨rfl, by subst h; decide, by subst h; decide, fun e _ => ⟨{ State.reset with inputs := [e] }, rfl, rfl⟩⟩

/-- A request of any length that stands behind one in progress. -/
theorem witness_BoundedInstanceRefusesOnlyLongRequests_behind (long : Request) : ∃ s : State,
    s.inputs = [.request long] ∧ s.inProgress ≠ [] ∧ ∀ e ∈ s.inputs.head?, s.inProgress = [] ∨ overlaps e = true → ∀ r,
      e = .request r ∨ e = .take r ∨ e = .requestChanged r r → r.length ≤ bound28.val := by
  refine ⟨{ (holding "8D") with inputs := [.request long] }, rfl, List.cons_ne_nil _ _, fun e he h => ?_⟩
  obtain rfl : _ = e := Option.some.inj he
  rcases h with h | h <;> cases h

/-- Exactly at the smallest bound: the second and the third clause. -/
theorem witness_BoundedInstanceRefusesOnlyLongRequests_at : ∃ s : State,
    s.inputs ≠ [] ∧ ∀ e ∈ s.inputs.head?, ∀ r, e = .request r ∨ e = .take r ∨ e = .requestChanged r r → r.length ≤ 28 := by
  refine ⟨presenting "8D4840D6202CC371C32CE0576098", by decide, ?_⟩
  intro e he r h
  obtain rfl : _ = e := Option.some.inj he
  rcases h with h | h | h <;> cases h
  decide

theorem witness_BadCharacterAnswersInvalidHex : ∃ s r rest q, Runs s r rest q ∧ ∃ c ∈ r, romHexVal c = none :=
  ⟨presenting "8D4840D6202CC371C32CE057609G", _, _, _, .inl ⟨rfl, rfl, rfl⟩, 0x47, by decide +kernel, by decide⟩

/-- 27 and 29 characters, the two lengths next to 28. -/
theorem witness_WrongLengthAnswersInvalidLength :
    (∃ s r rest q, Runs s r rest q ∧ (∀ c ∈ r, romHexVal c ≠ none) ∧ 4 * r.length ≠ 112 ∧ r.length = 27) ∧
    (∃ s r rest q, Runs s r rest q ∧ (∀ c ∈ r, romHexVal c ≠ none) ∧ 4 * r.length ≠ 112 ∧ r.length = 29) :=
  ⟨⟨presenting "8D4840D6202CC371C32CE057609", _, _, _, .inl ⟨rfl, rfl, rfl⟩, by decide +kernel, by decide, by decide⟩,
    ⟨presenting "8D4840D6202CC371C32CE05760980", _, _, _, .inl ⟨rfl, rfl, rfl⟩, by decide +kernel, by decide, by decide⟩⟩

theorem witness_ExpansionIsBigEndian : (∀ c ∈ ascii "8d", romHexVal c ≠ none) ∧ (ascii "8d")[1]? = some 0x64 ∧
    romHexVal 0x64 = some 13 := by decide

theorem witness_FrameRegisterHoldsRequest :
    loadFrame (ascii "8D4840D6202CC371C32CE0576098") = .ok 0x8D4840D6202CC371C32CE0576098 := by decide +kernel

theorem witness_FieldIsUnsignedBigEndian : (0 : Nat) < 112 ∧ 112 ≤ 112 := by decide

theorem witness_HexRoundTripIsUppercase : hex2bits (ascii "8d") = some [true, false, false, false, true, true, false, true] := by
  decide +kernel

theorem witness_DecodeOfEncodeIsIdentity : (Instr.tc12AirbornePos ⟨0x8D, 0x3C6586, 0, 0xFFF2D282527D, 4095, 92481, 21117, 0⟩).wf = true := by
  decide

/-- EncodeOfDecodeIsCanonical and TypeCodeIsHighBitsOfByteFour. -/
theorem witness_EncodeOfDecodeIsCanonical : ∃ r i, decode r = .ok i ∧ (r[8]?.bind romHexVal) = some 9 ∧ (r[9]?.bind romHexVal) = some 8 :=
  ⟨ascii "8d4b181498000384000000000000", .tc19AirborneVel ⟨0x8D, 0x4B1814, 0, 0x000384000000, 450, 0⟩, by decide +kernel,
    by decide +kernel, by decide +kernel⟩

theorem witness_DispatchIsTotalOverTypeCodes : ∃ s r rest q, Runs s r rest q ∧ r.length = 28 ∧ ∀ c ∈ r, romHexVal c ≠ none :=
  ⟨_, _, _, _, witness_runs_presented, by decide, by decide +kernel⟩

/-- The boundary type codes of each clause: 20, 22, 23, 27, 28, 31. -/
theorem witness_NoTypeCodeIsIllegal :
    (∀ F : Frame, ∃ s rest q, Runs s (frameRequest F) rest q) ∧
    [0x8D111111A0000000000000000000, 0x8D000000B0000000000000000000, 0x8D000000B8000000000000000000, 0x8D222222D8000000000000000000,
      0x8D333333E0000000000000000000, 0xFFFFFFFFFFFFFFFFFFFFFFFFFFFF].map (fun F => (field F 32 37).toNat) = [20, 22, 23, 27, 28, 31] :=
  ⟨fun F => ⟨{ State.reset with inputs := [.request (frameRequest F)] }, [], [], .inl ⟨rfl, rfl, rfl⟩⟩, by decide⟩

theorem witness_NoStatusThreeAndNoUnknown : ∃ s t, step s = .next t ∧ t.given = s.given ++ [.error .invalidHexInput] :=
  ⟨presenting "G", _, rfl, by decide⟩

/-- The well-formed instructions of the payload statements, one of each kind with a payload inside `idp`. -/
theorem witness_payload_statements :
    (Instr.tc5SurfacePos ⟨0, 0, 0, 0x0002D282527D, 92481, 21117, 0⟩).wf = true ∧
    (Instr.tc8SurfacePos ⟨0, 0, 0, 0, 0, 0, 0⟩).wf = true ∧
    (Instr.tc9AirbornePos ⟨0, 0, 0, 0x02900001FFFF, 41, 0, 131071, 0⟩).wf = true ∧
    (Instr.tc18AirbornePos ⟨0, 0, 0, 0x028200010000, 40, 65536, 65536, 0⟩).wf = true ∧
    (Instr.tc19AirborneVel ⟨0, 0, 0, 0x0007FE000000, 1023, 0⟩).wf = true ∧
    (Instr.tc0Nopos ⟨0, 0, 0, 0, 0⟩).wf = true ∧ (Instr.tc4Ident ⟨0, 0, 7, 0, 0⟩).wf = true ∧
    (Instr.tc20Reserved ⟨0, 0, 0, 0, 0⟩).wf = true := by decide

/-- A row in the list of each of the row statements. -/
theorem witness_IdentRowsAnswerIdentRecord (o : IdentOps) : ((4 : BitVec 5), Instr.tc4Ident o) ∈
    [((1 : BitVec 5), Instr.tc1Ident o), (2, .tc2Ident o), (3, .tc3Ident o), (4, .tc4Ident o)] := by simp

theorem witness_SurfaceRowsAnswerSurfaceRecord (o : SurfaceOps) : ((8 : BitVec 5), Instr.tc8SurfacePos o) ∈
    [((5 : BitVec 5), Instr.tc5SurfacePos o), (6, .tc6SurfacePos o), (7, .tc7SurfacePos o), (8, .tc8SurfacePos o)] := by simp

theorem witness_AirborneRowsAnswerAirborneRecord (o : AirborneOps) : ((18 : BitVec 5), Instr.tc18AirbornePos o) ∈
    [((9 : BitVec 5), Instr.tc9AirbornePos o), (10, .tc10AirbornePos o), (11, .tc11AirbornePos o), (12, .tc12AirbornePos o),
      (13, .tc13AirbornePos o), (14, .tc14AirbornePos o), (15, .tc15AirbornePos o), (16, .tc16AirbornePos o),
      (17, .tc17AirbornePos o), (18, .tc18AirbornePos o)] := by simp

theorem witness_ReservedRowsAnswerReservedRecord (o : PlainOps) : ((22 : BitVec 5), Instr.tc22Reserved o) ∈
    [((20 : BitVec 5), Instr.tc20Reserved o), (21, .tc21Reserved o), (22, .tc22Reserved o)] := by simp

theorem witness_TestRowsAnswerTestRecord (o : PlainOps) : ((27 : BitVec 5), Instr.tc27Test o) ∈
    [((23 : BitVec 5), Instr.tc23Test o), (24, .tc24Test o), (25, .tc25Test o), (26, .tc26Test o), (27, .tc27Test o)] := by simp

theorem witness_ExtSquitterRowsAnswerExtSquitterRecord (o : PlainOps) : ((31 : BitVec 5), Instr.tc31ExtSquitter o) ∈
    [((28 : BitVec 5), Instr.tc28ExtSquitter o), (29, .tc29ExtSquitter o), (30, .tc30ExtSquitter o), (31, .tc31ExtSquitter o)] := by simp

theorem witness_SurfaceAndAirborneShareOnePositionRoutine : ∃ (a : SurfaceOps) (b : AirborneOps), a.rlat = b.rlat ∧ a.rlon = b.rlon ∧
    a.wf = true ∧ b.wf = true :=
  ⟨⟨0, 0, 0, 0x0002D282527D, 92481, 21117, 0⟩, ⟨0, 0, 0, 0xFFF2D282527D, 4095, 92481, 21117, 0⟩, rfl, rfl, by decide, by decide⟩

theorem witness_PositionIsBoundedAndIncreasing : (0 : BitVec 17) < 131071 := by decide

theorem witness_IdentificationIsTrimmedLookup : ∃ s r rest q F, Runs s r rest q ∧ loadFrame r = .ok F :=
  ⟨_, _, _, _, _, witness_runs_presented, witness_FrameRegisterHoldsRequest⟩

theorem witness_TrimRemovesOuterBlanksOnly : IsTrimOf (ascii " A B    ") (ascii "A B") :=
  ⟨⟨1, 4, by decide⟩, by decide, by decide⟩

/-- DI-34: frames that differ in unread bits only, and two NOPOS frames that differ in bits [37,40). -/
theorem witness_UnreadBitsNeverAffectResponse :
    (∃ F G : Frame, loadFrame (ascii "004840D6202CC371C32CE0000000") = .ok F ∧ loadFrame (ascii "FF4840D6202CC371C32CE0FFFFFF") = .ok G ∧
      F ≠ G ∧ field F 8 37 = field G 8 37 ∧ field F 40 88 = field G 40 88 ∧ field F 37 40 = field G 37 40) ∧
    (∃ F G : Frame, loadFrame (ascii "0000000000000000000000000000") = .ok F ∧ loadFrame (ascii "0000000007000000000000000000") = .ok G ∧
      F ≠ G ∧ field F 8 37 = field G 8 37 ∧ field F 40 88 = field G 40 88 ∧ (field F 32 37).toNat = 0) :=
  ⟨⟨0x004840D6202CC371C32CE0000000, 0xFF4840D6202CC371C32CE0FFFFFF, by decide +kernel, by decide +kernel, by decide, by decide, by decide,
      by decide⟩,
    ⟨0, 0x0000000007000000000000000000, by decide +kernel, by decide +kernel, by decide, by decide, by decide, by decide⟩⟩

/-- One state for each clause: no response, an error, a record that carries the field, a record that lacks it; with and
without a request in progress. -/
theorem witness_ReadsOfAbsentFieldsFault : ∀ p ∈ [(none : Option Response), some (.error .invalidHexInput),
      some (.ok (.ident (header .ident 1 0 0) 5)), some (.ok (.nopos (header .nopos 0 0 0)))],
    ∀ q ∈ [[], [ascii "G"]], ∃ s : State, s.inProgress = q ∧ s.inputs = [.read .cat] ∧ s.presented = p :=
  fun p _ q _ => ⟨{ State.reset with inputs := [.read .cat], inProgress := q, presented := p }, rfl, rfl, rfl⟩

/-- A request answered with a record of each variant that carries a payload, one of a variant that carries none, and one answered with an
error. -/
theorem witness_FlatPortDrivesAbsentFieldsToZero :
    ["8D4840D6202CC371C32CE0576098", "8DA1B2C3280002D282527D000000", "8D3C658660FFF2D282527D000000", "8D4B181498000384000000000000",
      "8D111111A0000000000000000000"].map (fun r => (record r).map fun rec => rec.variant) =
    [some .ident, some .surfacePos, some .airbornePos, some .airborneVel, some .reserved] ∧
    (answer "G").map Response.status = some 1 := by decide +kernel

end Sys2Proof.Tests
end

section
/-! The scope of an instance (00_scope.md R10): what the bound `IN_MAX_LEN` changes in a step, and that the other parameters change
nothing. -/

namespace Sys2Proof.Proofs.Scope

open Sys2Proof.Machine

/-- Of the parameters of an instance only the bound decides which requests it can be given. -/
theorem admits_congr {c c' : Config} (h : c.inMaxLen = c'.inMaxLen) (r : Request) : admits c r = admits c' r := by
  simp only [admits, h]

/-- A request that the instance cannot be given is refused, in whichever way it is presented. -/
theorem handleEvent_refuses {c : Config} {e : HostEvent} {r : Request}
    (he : e = .request r ∨ e = .take r ∨ e = .requestChanged r r) (hr : admits c r = false) (rest : List HostEvent) (s : State) :
    handleEvent c e rest s = .refused .requestTooLong := by
  rcases he with rfl | rfl | rfl <;> simp [handleEvent, hr]

/-- A step refuses a request that the instance cannot be given, where the step would take it: a `take` may fall while other requests
are in progress, the other two wait for their answers. -/
theorem stepWith_refuses {c : Config} {s : State} {r : Request} {rest : List HostEvent}
    (h : (s.inProgress = [] ∧ (s.inputs = .request r :: rest ∨ s.inputs = .requestChanged r r :: rest)) ∨ s.inputs = .take r :: rest)
    (hr : admits c r = false) : stepWith c s = .refused .requestTooLong := by
  rcases h with ⟨hp, hi | hi⟩ | hi
  · rw [stepWith_event c hi (.inr hp), handleEvent_refuses (.inl rfl) hr]
  · rw [stepWith_event c hi (.inr hp), handleEvent_refuses (.inr (.inr rfl)) hr]
  · rw [stepWith_event c hi (.inl rfl), handleEvent_refuses (.inr (.inl rfl)) hr]

/-- An instance that admits every request that the step would take steps as the reference model. -/
theorem stepWith_eq_step {c : Config} {s : State}
    (h : ∀ e ∈ s.inputs.head?, s.inProgress = [] ∨ overlaps e = true → ∀ r,
      e = .request r ∨ e = .take r ∨ e = .requestChanged r r → admits c r = true) :
    stepWith c s = step s :=
  stepWith_congr fun e he hn r hr => by rw [h e he hn r hr, admits_reference]

/-- Settles O12: the bound matters only through `admits`, and a step asks `admits` only about the request it would take. -/
theorem boundedInstanceRefusesOnlyLongRequests : Obligations.BoundedInstanceRefusesOnlyLongRequests := by
  refine ⟨fun c n s hc => ⟨fun r rest hs hlong => ?_, fun hshort => ?_⟩, fun c s hshort => ?_⟩
  · exact stepWith_refuses hs (by rw [admits_some hc]; exact decide_eq_false hlong.not_ge)
  · exact stepWith_eq_step fun e he hn r hr => by rw [admits_some hc]; exact decide_eq_true (hshort e he hn r hr)
  · exact stepWith_eq_step fun e he _ r hr => admits_of_length_le c (hshort e he r hr)

/-- Settles O49: the two instances have one bound, and so admit the same requests. -/
theorem openParametersNeverMatter : Obligations.OpenParametersNeverMatter :=
  fun _ _ _ _ _ _ _ _ => stepWith_congr fun _ _ _ r _ => admits_congr rfl r

end Sys2Proof.Proofs.Scope
end

section
/-! The invariant of the block between steps (10_state.md sections 3 and 4): every response that a transaction can give is legal, and
so every step keeps `State.Inv`. -/

namespace Sys2Proof.Proofs.Invariant

open Sys2Proof.Machine

/-! ## The identification string -/

theorem getLast?_trim (bs : List Byte) : (trim bs).getLast? ≠ some blank := by
  rw [trim, List.getLast?_reverse]
  exact head?_dropWhile_blank _

/-- Cutting blanks off the end leaves the front, which is no blank, as it was. -/
theorem head?_trim (bs : List Byte) : (trim bs).head? ≠ some blank := by
  intro h
  obtain ⟨a, ha⟩ := replicate_append_dropWhile (bs.dropWhile (· == blank)).reverse
  have hsplit : bs.dropWhile (· == blank) = trim bs ++ List.replicate a blank := by
    simpa [trim] using congrArg List.reverse ha
  refine head?_dropWhile_blank bs ?_
  rw [hsplit, List.head?_append, h, Option.some_or]

/-- `ROM_IDCHAR` holds blanks, sentinels and uppercase letters only. -/
theorem romIdChar_mem_alphabet : ∀ k : BitVec 6,
    romIdChar k = 0x20 ∨ romIdChar k = 0x3F ∨ (0x41 ≤ (romIdChar k).toNat ∧ (romIdChar k).toNat ≤ 0x5A) := by
  decide

theorem idDecode_mem_alphabet {idp : BitVec 48} {c : Byte} (h : c ∈ idDecode idp) :
    c = 0x20 ∨ c = 0x3F ∨ (0x41 ≤ c.toNat ∧ c.toNat ≤ 0x5A) := by
  obtain ⟨k, -, rfl⟩ := List.mem_map.1 (mem_of_mem_trim h)
  exact romIdChar_mem_alphabet k

/-! ## Legal records -/

theorem header_wf {kind : RecordKind} {tc : BitVec 5} (h : dispatch tc = kind) (icao : BitVec 24) (idp : BitVec 48) :
    (header kind tc icao idp).wf = true :=
  decide_eq_true ⟨h.symm, rfl, rfl, header_idLen_toNat .., length_idDecode_le idp, fun _ hc => idDecode_mem_alphabet hc,
    head?_trim _, getLast?_trim _⟩

/-- The ends of R138's intervals are the codes 0 and 131071. -/
theorem posDecode_wf (rlat rlon : BitVec 17) : (posDecode rlat rlon).wf = true := by
  have hlat := rlat.isLt
  have hlon := rlon.isLt
  simp only [Position.wf, posDecode_latQ17_toInt, posDecode_lonQ17_toInt, decide_eq_true_eq]
  omega

theorem altDecode_mem_range (altc : BitVec 12) : (altDecode altc).toNat ≤ 101375 ∧ (altDecode altc).toNat % 25 = 0 := by
  have := altc.isLt
  rw [altDecode_toNat]
  omega

/-- `Record.wf` clause by clause, so that a record kind gives one proof for each. -/
theorem record_wf {rec : Record} (hheader : rec.header.wf = true) (hkind : rec.variant = rec.header.kind)
    (hknown : rec.variant ≠ .unknown) (hpos : ∀ p ∈ rec.pos?, p.wf = true)
    (halt : ∀ a ∈ rec.altFt?, a.toNat ≤ 101375 ∧ a.toNat % 25 = 0) : rec.wf = true := by
  simp only [Record.wf, hheader, decide_eq_true hkind, decide_eq_true hknown, Bool.true_and, Bool.and_eq_true, Option.all_eq_true,
    decide_eq_true_eq]
  exact ⟨hpos, halt⟩

section records

variable {tc : BitVec 5}

theorem noposRecord_wf (h : dispatch tc = .nopos) (o : PlainOps) : (noposRecord tc o).wf = true :=
  record_wf (header_wf h o.icao o.idp) rfl nofun nofun nofun

theorem identRecord_wf (h : dispatch tc = .ident) (o : IdentOps) : (identRecord tc o).wf = true :=
  record_wf (header_wf h o.icao o.idp) rfl nofun nofun nofun

theorem surfacePosRecord_wf (h : dispatch tc = .surfacePos) (o : SurfaceOps) : (surfacePosRecord tc o).wf = true :=
  record_wf (header_wf h o.icao o.idp) rfl nofun (fun _ hp => Option.some.inj hp ▸ posDecode_wf o.rlat o.rlon) nofun

theorem airbornePosRecord_wf (h : dispatch tc = .airbornePos) (o : AirborneOps) : (airbornePosRecord tc o).wf = true :=
  record_wf (header_wf h o.icao o.idp) rfl nofun (fun _ hp => Option.some.inj hp ▸ posDecode_wf o.rlat o.rlon)
    (fun _ ha => Option.some.inj ha ▸ altDecode_mem_range o.altc)

theorem airborneVelRecord_wf (h : dispatch tc = .airborneVel) (o : VelocityOps) : (airborneVelRecord tc o).wf = true :=
  record_wf (header_wf h o.icao o.idp) rfl nofun nofun nofun

theorem reservedRecord_wf (h : dispatch tc = .reserved) (o : PlainOps) : (reservedRecord tc o).wf = true :=
  record_wf (header_wf h o.icao o.idp) rfl nofun nofun nofun

theorem testRecord_wf (h : dispatch tc = .test) (o : PlainOps) : (testRecord tc o).wf = true :=
  record_wf (header_wf h o.icao o.idp) rfl nofun nofun nofun

theorem extSquitterRecord_wf (h : dispatch tc = .extSquitter) (o : PlainOps) : (extSquitterRecord tc o).wf = true :=
  record_wf (header_wf h o.icao o.idp) rfl nofun nofun nofun

end records

/-! ## Legal responses -/

/-- Every row answers a legal record: the type code it puts in the header is one that dispatches to its kind. -/
theorem exec_next_wf (i : Instr) (s : State) : ∃ rec, exec i s = .next (respond (.ok rec) s) ∧ rec.wf = true := by
  cases i with
  | tc0Nopos o => exact ⟨_, rfl, noposRecord_wf rfl o⟩
  | tc1Ident o | tc2Ident o | tc3Ident o | tc4Ident o => exact ⟨_, rfl, identRecord_wf rfl o⟩
  | tc5SurfacePos o | tc6SurfacePos o | tc7SurfacePos o | tc8SurfacePos o => exact ⟨_, rfl, surfacePosRecord_wf rfl o⟩
  | tc9AirbornePos o | tc10AirbornePos o | tc11AirbornePos o | tc12AirbornePos o | tc13AirbornePos o | tc14AirbornePos o
  | tc15AirbornePos o | tc16AirbornePos o | tc17AirbornePos o | tc18AirbornePos o => exact ⟨_, rfl, airbornePosRecord_wf rfl o⟩
  | tc19AirborneVel o => exact ⟨_, rfl, airborneVelRecord_wf rfl o⟩
  | tc20Reserved o | tc21Reserved o | tc22Reserved o => exact ⟨_, rfl, reservedRecord_wf rfl o⟩
  | tc23Test o | tc24Test o | tc25Test o | tc26Test o | tc27Test o => exact ⟨_, rfl, testRecord_wf rfl o⟩
  | tc28ExtSquitter o | tc29ExtSquitter o | tc30ExtSquitter o | tc31ExtSquitter o => exact ⟨_, rfl, extSquitterRecord_wf rfl o⟩

/-- A transaction completes with one legal response, whatever the request. -/
theorem transact_next_wf (r : Request) (s : State) : ∃ resp, transact r s = .next (respond resp s) ∧ resp.wf = true := by
  cases h : decode r with
  | error e => exact ⟨.error e, transact_error h s, rfl⟩
  | ok i =>
    obtain ⟨rec, hexec, hwf⟩ := exec_next_wf i (loadWorking r s)
    exact ⟨.ok rec, by rw [transact_ok h, hexec, respond_loadWorking], hwf⟩

/-! ## What keeps the invariant -/

section keeps

variable {s t : State}

theorem inv_takeRequest (h : s.Inv) (r : Request) (rest : List HostEvent) : (takeRequest r rest s).Inv := h

theorem inv_passEvent (h : s.Inv) (rest : List HostEvent) : (passEvent rest s).Inv := h

/-- Reset clears the port and leaves the responses already given. -/
theorem inv_resetBlock (h : s.Inv) (rest : List HostEvent) : (resetBlock rest s).Inv := by
  obtain ⟨-, -, -, -, hgiven⟩ := h
  exact ⟨rfl, rfl, rfl, .inl rfl, hgiven⟩

/-- A legal response becomes the last one given and the one on the port. -/
theorem inv_respond {resp : Response} (h : s.Inv) (hwf : resp.wf = true) : (respond resp s).Inv := by
  obtain ⟨-, -, -, -, hgiven⟩ := h
  refine ⟨rfl, rfl, rfl, .inr (by simp), ?_⟩
  simpa [or_imp, forall_and, hwf] using hgiven

theorem inv_transact {r : Request} (h : s.Inv) (ht : transact r s = .next t) : t.Inv := by
  obtain ⟨resp, hr, hwf⟩ := transact_next_wf r s
  cases hr.symm.trans ht
  exact inv_respond h hwf

theorem inv_answerOldest (h : s.Inv) (ht : answerOldest s = .next t) : t.Inv := by
  rcases answerOldest_cases s with ⟨-, ha⟩ | ⟨r, q, -, ha⟩
  · cases ha.symm.trans ht
    exact h
  · exact inv_transact h (ha.symm.trans ht)

theorem inv_handleEvent {c : Config} {e : HostEvent} {rest : List HostEvent} (h : s.Inv)
    (ht : handleEvent c e rest s = .next t) : t.Inv := by
  rcases handleEvent_next ht with ⟨r, -, htr⟩ | ⟨r, -, rfl⟩ | ⟨-, ha⟩ | ⟨f, v, -, -, rfl⟩ | ⟨-, rfl⟩
  · exact inv_transact (inv_takeRequest h r rest) htr
  · exact inv_takeRequest h r rest
  · exact inv_answerOldest (inv_passEvent h rest) ha
  · exact inv_passEvent h rest
  · exact inv_resetBlock h rest

end keeps

/-- Settles O3: a step handles a host event or answers the oldest request, and each keeps the invariant. -/
theorem everyStepKeepsInvariant : Obligations.EveryStepKeepsInvariant := by
  intro c s t h ht
  rcases stepWith_cases c s with ⟨e, rest, -, -, he⟩ | ⟨-, ha⟩
  · exact inv_handleEvent h (he.symm.trans ht)
  · exact inv_answerOldest h (ha.symm.trans ht)

end Sys2Proof.Proofs.Invariant
end

section
/-! The host's reads of the response port (10_state.md R27, R33, 70_reset_and_hazards.md R234, R238): which reads pass, what they give,
and how the others fault. -/

namespace Sys2Proof.Proofs.Reads

open Sys2Proof.Machine

/-! ## The fields of a record -/

/-- The typed record has exactly the fields that its kind carries. -/
theorem isSome_field? (rec : Record) (f : RecField) : (rec.field? f).isSome = carries rec.variant f := by
  cases f with
  | icao | icaoHex | tc | kind | description | idLen | idChars => rfl
  | cat | latQ17 | lonQ17 | altFt | velKt => cases rec <;> rfl

/-- Each field comes from the variant that owns it; of the others there is no value. -/
theorem hasField_of_field? {rec : Record} {f : RecField} {v : FieldValue} (hf : rec.field? f = some v) : HasField rec v f := by
  cases f with
  | icao | icaoHex | tc | kind | description | idLen | idChars => exact (Option.some.inj hf).symm
  | cat =>
    cases rec with
    | ident h c => exact ⟨h, c, rfl, (Option.some.inj hf).symm⟩
    | _ => cases hf
  | latQ17 | lonQ17 =>
    cases rec with
    | surfacePos h p => exact ⟨h, 0, p, .inl rfl, (Option.some.inj hf).symm⟩
    | airbornePos h a p => exact ⟨h, a, p, .inr rfl, (Option.some.inj hf).symm⟩
    | _ => cases hf
  | altFt =>
    cases rec with
    | airbornePos h a p => exact ⟨h, a, p, rfl, (Option.some.inj hf).symm⟩
    | _ => cases hf
  | velKt =>
    cases rec with
    | airborneVel h w => exact ⟨h, w, rfl, (Option.some.inj hf).symm⟩
    | _ => cases hf

/-- Every field of the port is zero before the first response. -/
theorem field_zeros (f : RecField) : (FlatPort.zeros 0).field f = unansweredValue f := by
  cases f <;> rfl

/-! ## What a read of the port answers -/

section reads

variable {s : State} {f : RecField} {rest : List HostEvent}

theorem readField_error {e : DecodeError} (h : s.presented = some (.error e)) : readField f s = .fault .readOfErrorResponse := by
  simp [readField, h]

theorem readField_some {rec : Record} {v : FieldValue} (h : s.presented = some (.ok rec)) (hf : rec.field? f = some v) :
    readField f s = .next v := by
  simp [readField, h, hf]

theorem readField_absent {rec : Record} (h : s.presented = some (.ok rec)) (hf : rec.field? f = none) :
    readField f s = .fault .readOfAbsentField := by
  simp [readField, h, hf]

/-- A read may fall at any moment, so the step handles it whatever is in progress. -/
theorem step_read (hi : s.inputs = .read f :: rest) : step s = handleEvent .reference (.read f) rest s :=
  stepWith_event .reference hi (.inl rfl)

/-- A read that passes takes its event away and changes nothing else. -/
theorem step_read_next (hi : s.inputs = .read f :: rest) {v : FieldValue} (h : readField f s = .next v) :
    step s = .next { s with inputs := rest } := by
  simp [step_read hi, handleEvent, h, passEvent]

theorem step_read_fault (hi : s.inputs = .read f :: rest) {r : Fault} (h : readField f s = .fault r) : step s = .fault r := by
  simp [step_read hi, handleEvent, h]

end reads

/-- Settles O47: by what is presented, and for a record by whether its kind carries the field. -/
theorem readsOfAbsentFieldsFault : Obligations.ReadsOfAbsentFieldsFault := by
  refine fun s f rest hi => ⟨fun hp => ?_, fun e hp => ?_, fun rec hp hc => ?_, fun rec hp hc => ?_⟩
  · have hr : readField f s = .next (unansweredValue f) := by rw [readField_none hp, field_zeros]
    exact ⟨step_read_next hi hr, hr⟩
  · exact step_read_fault hi (readField_error hp)
  · obtain ⟨v, hf⟩ := Option.isSome_iff_exists.1 ((isSome_field? rec f).trans hc)
    have hr := readField_some hp hf
    exact ⟨step_read_next hi hr, v, hr, hasField_of_field? hf⟩
  · have hf := Option.isSome_eq_false_iff.1 ((isSome_field? rec f).trans hc)
    exact step_read_fault hi (readField_absent hp (Option.isNone_iff_eq_none.1 hf))

end Sys2Proof.Proofs.Reads
end

section
/-! The encoder after the decoder (30_encoding.md section 5): a request that decodes is spelled again, in uppercase, by the instruction
it decodes to, and the operands of that instruction agree where they share frame bits (20_memory.md R53). -/

namespace Sys2Proof.Proofs.Encoding

open Sys2Proof.Machine

/-! ## From a frame back to the characters that spell it -/

/-- The two spellings of a digit have one value, and its uppercase spelling is the one that the encoder writes. -/
theorem romHexDigit_of_romHexVal : ∀ c : Byte, ∀ d ∈ romHexVal c, romHexDigit d = upper c := by
  decide

theorem bits2hex_digitBits_append (d : Nibble) (bs : Bits) : bits2hex (digitBits d ++ bs) = romHexDigit d :: bits2hex bs :=
  congrArg (romHexDigit · :: bits2hex bs) (ofBits_digitBits d)

theorem bits2hex_flatMap_digitBits (ds : List Nibble) : bits2hex (ds.flatMap digitBits) = ds.map romHexDigit := by
  induction ds with
  | nil => rfl
  | cons d ds ih => rw [List.flatMap_cons, bits2hex_digitBits_append, ih, List.map_cons]

theorem map_romHexDigit_of_hexDigits {r : Request} {ds : List Nibble} (h : hexDigits r = some ds) :
    ds.map romHexDigit = r.map upper := by
  induction r generalizing ds with
  | nil => cases h; rfl
  | cons c cs ih =>
    obtain ⟨d, es, hd, hes, rfl⟩ := hexDigits_cons.1 h
    rw [List.map_cons, List.map_cons, romHexDigit_of_romHexVal c d hd, ih hes]

/-- BITS2HEX after HEX2BITS: the request in uppercase, at every length. -/
theorem bits2hex_of_hex2bits {r : Request} {bs : Bits} (h : hex2bits r = some bs) : bits2hex bs = r.map upper := by
  obtain ⟨ds, hds, rfl⟩ := Option.map_eq_some_iff.1 h
  rw [bits2hex_flatMap_digitBits, map_romHexDigit_of_hexDigits hds]

/-- The canonical request of a loaded frame is the request it was loaded from, in uppercase. -/
theorem frameRequest_of_loadFrame {r : Request} {F : Frame} (h : loadFrame r = .ok F) : frameRequest F = r.map upper := by
  obtain ⟨bs, hbs, hlen, rfl⟩ := loadFrame_ok.1 h
  rw [frameRequest, frameBits_frameLoad hlen, bits2hex_of_hex2bits hbs]

/-! ## From an instruction back to its frame -/

/-- The six bit groups of a frame (30_encoding.md R72). -/
def frameLayout (F : Frame) : Layout where
  x0 := field F 0 8
  icao := field F 8 32
  tc := field F 32 37
  low3 := field F 37 40
  idp := field F 40 88
  x88 := field F 88 112

/-- The six groups leave out no bit of the frame. -/
theorem pack_frameLayout (F : Frame) : (frameLayout F).pack = F := by
  have hF := F.isLt
  apply BitVec.eq_of_toNat_eq
  rw [pack_toNat]
  simp only [frameLayout, field_toNat]
  omega

/-- Every row keeps all the groups: it writes its own type code and takes the other five from the frame. The last arm of `rowOf` names no
type code: 31 is the one that the arms before it leave. -/
theorem layout_rowOf (tc : BitVec 5) (F : Frame) : (rowOf tc F).layout = { frameLayout F with tc := tc } := by
  fun_cases rowOf tc F
  case case32 =>
    have htc : tc = 31#5 := by
      simp only [imp_false] at *
      bv_omega
    rw [htc]
    rfl
  all_goals rfl

theorem encodeFrame_decodeFrame (F : Frame) : encodeFrame (decodeFrame F) = F := by
  rw [encodeFrame, decodeFrame, layout_rowOf]
  exact pack_frameLayout F

/-! ## The operands that overlap: the slicer reads them out of the identification payload -/

theorem surfaceOps_wf (F : Frame) : (surfaceOps F).wf = true := by
  rw [← pack_frameLayout F]
  simp [SurfaceOps.wf, surfaceOps, Laws.RoundTrip.slice_pack]

theorem airborneOps_wf (F : Frame) : (airborneOps F).wf = true := by
  rw [← pack_frameLayout F]
  simp [AirborneOps.wf, airborneOps, Laws.RoundTrip.slice_pack]

theorem velocityOps_wf (F : Frame) : (velocityOps F).wf = true := by
  rw [← pack_frameLayout F]
  simp [VelocityOps.wf, velocityOps, Laws.RoundTrip.slice_pack]

/-- Only the position and velocity rows have operands that share frame bits; the arm of type code `n` is `rowOf`'s case `n + 1`. -/
theorem rowOf_wf (tc : BitVec 5) (F : Frame) : (rowOf tc F).wf = true := by
  fun_cases rowOf tc F
  case case6 | case7 | case8 | case9 => exact surfaceOps_wf F
  case case10 | case11 | case12 | case13 | case14 | case15 | case16 | case17 | case18 | case19 => exact airborneOps_wf F
  case case20 => exact velocityOps_wf F
  all_goals rfl

/-- Settles O23: the request and the instruction go through one frame, and neither way loses a bit of it. -/
theorem encodeOfDecodeIsCanonical : Obligations.EncodeOfDecodeIsCanonical := by
  intro r i h
  obtain ⟨F, hF, rfl⟩ := decode_ok.1 h
  refine ⟨rowOf_wf _ F, ?_⟩
  rw [encode, encodeFrame_decodeFrame, frameRequest_of_loadFrame hF]

end Sys2Proof.Proofs.Encoding
end

section
/-! That a response is determined by its request (20_memory.md R57): nothing of the state in which a transaction runs enters its
response, and a host's read leaves nothing behind that a later one could see. -/

namespace Sys2Proof.Proofs.Responses

open Sys2Proof.Machine

/-- The record that an instruction gives is the same in every state. -/
theorem exec_next_uniform (i : Instr) : ∃ rec, ∀ s, exec i s = .next (respond (.ok rec) s) := by
  cases i <;> exact ⟨_, fun _ => rfl⟩

/-- The response to a request is the same in every state. -/
theorem transact_next_uniform (r : Request) : ∃ resp, ∀ s, transact r s = .next (respond resp s) := by
  cases h : decode r with
  | error e => exact ⟨.error e, transact_error h⟩
  | ok i =>
    obtain ⟨rec, hexec⟩ := exec_next_uniform i
    exact ⟨.ok rec, fun s => by rw [transact_ok h, hexec, respond_loadWorking]⟩

/-- A step that runs a request, in whichever of the three ways, is the transaction of that request, taken and oldest in progress. -/
theorem step_of_runs {s : State} {r : Request} {rest : List HostEvent} {q : List Request} (h : Runs s r rest q) :
    step s = transact r { s with inputs := rest, inProgress := r :: q } := by
  rcases h with ⟨hp, rfl, hi⟩ | ⟨hp, hi⟩ | ⟨hp, rfl, hover⟩
  · rw [step, stepWith_event _ hi (.inr hp)]
    simp [handleEvent, takeRequest, hp]
  · rw [step, stepWith_event _ hi (.inl rfl), ← hp]
    exact answerOldest_cons hp
  · rw [step, stepWith_inProgress _ hp hover, ← hp]

/-- A read that answers a next state has taken its own event away and done nothing else. -/
theorem step_read_keeps {s t : State} {f : RecField} {rest : List HostEvent} (hi : s.inputs = .read f :: rest)
    (h : step s = .next t) : t = passEvent rest s := by
  rw [Reads.step_read hi] at h
  rcases handleEvent_next h with ⟨_, he | he, -⟩ | ⟨_, he, -⟩ | ⟨he, -⟩ | ⟨_, _, -, -, ht⟩ | ⟨he, -⟩
  case inr.inr.inr.inl => exact ht
  all_goals cases he

/-- Settles O7: the response is the one that the request's transaction gives in every state. -/
theorem sameRequestSameResponse : Obligations.SameRequestSameResponse := by
  refine ⟨fun r => ?_, fun s t f rest hi h => step_read_keeps hi h⟩
  obtain ⟨resp, htransact⟩ := transact_next_uniform r
  exact ⟨resp, fun s rest q hruns => (step_of_runs hruns).trans (htransact _)⟩

end Sys2Proof.Proofs.Responses
end

section
/-! The rows against the dispatch (30_encoding.md R77, 42_type_code_dispatch.md R170, R171): the row that the opcode map selects for a
frame answers the record that the dispatch of its type code names, for every frame. -/

namespace Sys2Proof.Proofs.Dispatch

open Sys2Proof.Machine

/-! ## The record of a frame -/

/-- The instruction of a frame answers the frame's record: each row writes its own type code, which is the one that selected it, and
its kind is the one that the type code dispatches to. The last arm of `rowOf` is the type code 31. -/
theorem exec_rowOf {F : Frame} {tc : BitVec 5} (htc : (slice F).tc = tc) (s : State) :
    exec (rowOf tc F) s = .next (respond (.ok (recordOf F)) s) := by
  simp only [recordOf, htc]
  fun_cases rowOf tc F
  case case32 =>
    obtain rfl : tc = 31#5 := by
      simp only [imp_false] at *
      bv_omega
    rfl
  all_goals rfl

/-- A request that loads a frame is answered with that frame's record. -/
theorem transact_loadFrame {r : Request} {F : Frame} (hF : loadFrame r = .ok F) (s : State) :
    transact r s = .next (respond (.ok (recordOf F)) s) := by
  rw [transact_ok (decode_ok.2 ⟨F, hF, rfl⟩), decodeFrame, exec_rowOf rfl, respond_loadWorking]

/-- A step that runs a request which loads a frame answers that frame's record, and changes nothing else. -/
theorem step_of_runs_loadFrame {s : State} {r : Request} {F : Frame} {rest : List HostEvent} {q : List Request}
    (h : Runs s r rest q) (hF : loadFrame r = .ok F) : step s = .next (answered s rest q (.ok (recordOf F))) :=
  (Responses.step_of_runs h).trans (transact_loadFrame hF _)

theorem variant_recordOf (F : Frame) : (recordOf F).variant = dispatch (slice F).tc := by
  simp only [recordOf]
  cases dispatch (slice F).tc <;> rfl

/-! ## The kinds that carry a header and no more -/

theorem dispatch_eq_reserved : ∀ tc : BitVec 5, dispatch tc = .reserved ↔ 20 ≤ tc.toNat ∧ tc.toNat ≤ 22 := by
  decide

theorem dispatch_eq_test : ∀ tc : BitVec 5, dispatch tc = .test ↔ 23 ≤ tc.toNat ∧ tc.toNat ≤ 27 := by
  decide

theorem dispatch_eq_extSquitter : ∀ tc : BitVec 5, dispatch tc = .extSquitter ↔ 28 ≤ tc.toNat := by
  decide

theorem eq_reserved_of_variant {rec : Record} (h : rec.variant = .reserved) : rec = .reserved rec.header := by
  cases rec with
  | reserved _ => rfl
  | _ => cases h

theorem eq_test_of_variant {rec : Record} (h : rec.variant = .test) : rec = .test rec.header := by
  cases rec with
  | test _ => rfl
  | _ => cases h

theorem eq_extSquitter_of_variant {rec : Record} (h : rec.variant = .extSquitter) : rec = .extSquitter rec.header := by
  cases rec with
  | extSquitter _ => rfl
  | _ => cases h

/-- Settles O27: the canonical request of a frame loads that frame, and so is answered with its record; the variant of that record is
the kind that the type code dispatches to. -/
theorem noTypeCodeIsIllegal : Obligations.NoTypeCodeIsIllegal := by
  refine fun s F rest q h => ⟨recordOf F, step_of_runs_loadFrame h (loadFrame_frameRequest F), fun h20 h22 => ?_, fun h23 h27 => ?_,
    fun h28 => ?_⟩
  · exact eq_reserved_of_variant ((variant_recordOf F).trans ((dispatch_eq_reserved _).2 ⟨h20, h22⟩))
  · exact eq_test_of_variant ((variant_recordOf F).trans ((dispatch_eq_test _).2 ⟨h23, h27⟩))
  · exact eq_extSquitter_of_variant ((variant_recordOf F).trans ((dispatch_eq_extSquitter _).2 h28))

end Sys2Proof.Proofs.Dispatch
end

section
/-! From the characters of a request to the slices of its frame (40_hex_and_frame.md): the two ways in which the loading of a frame
fails, the order of the expanded bits, and the value of a bit field. -/

namespace Sys2Proof.Proofs.HexAndFrame

open Sys2Proof.Machine

/-! ## A request that loads no frame -/

/-- The error that the loading of the frame raises is the one that the decoder answers. -/
theorem decode_of_loadFrame_error {r : Request} {e : DecodeError} (h : loadFrame r = .error e) : decode r = .error e := by
  rw [decode_eq, h]
  rfl

/-- A step that runs a request which loads no frame answers the error, and changes nothing else. -/
theorem step_of_runs_loadFrame_error {s : State} {r : Request} {e : DecodeError} {rest : List HostEvent} {q : List Request}
    (h : Runs s r rest q) (he : loadFrame r = .error e) : step s = .next (answered s rest q (.error e)) :=
  (Responses.step_of_runs h).trans (transact_error (decode_of_loadFrame_error he) _)

/-- Settles O14: the character check comes first, so one bad character decides the response at every length. -/
theorem badCharacterAnswersInvalidHex : Obligations.BadCharacterAnswersInvalidHex :=
  fun _ _ _ _ hruns hbad => ⟨step_of_runs_loadFrame_error hruns (loadFrame_invalidHexInput hbad), rfl⟩

/-- Settles O15: the expansion has 112 bits only for a request of 28 characters. -/
theorem wrongLengthAnswersInvalidLength : Obligations.WrongLengthAnswersInvalidLength := by
  intro s r rest q hruns hhex hlen
  have h28 : r.length ≠ 28 := by omega
  exact ⟨step_of_runs_loadFrame_error hruns (loadFrame_invalidFrameLength hhex h28), rfl⟩

/-! ## The order of the expanded bits -/

theorem getElem?_digitBits : ∀ d : Nibble, ∀ k < 4, (digitBits d)[k]? = some (d.getLsbD (3 - k)) := by
  decide

/-- The bits of digit `j` begin at place `4 * j`. -/
theorem getElem?_flatMap_digitBits {ds : List Nibble} {j : Nat} {d : Nibble} (hd : ds[j]? = some d) {k : Nat} (hk : k < 4) :
    (ds.flatMap digitBits)[4 * j + k]? = some (d.getLsbD (3 - k)) := by
  induction ds generalizing j with
  | nil => cases hd
  | cons e es ih =>
    have hlen : (digitBits e).length = 4 := rfl
    rw [List.flatMap_cons]
    cases j with
    | zero =>
      obtain rfl : e = d := Option.some.inj hd
      rw [Nat.mul_zero, Nat.zero_add, List.getElem?_append_left (hk.trans_eq hlen.symm), getElem?_digitBits e k hk]
    | succ j =>
      rw [List.getElem?_append_right (by omega), hlen, show 4 * (j + 1) + k - 4 = 4 * j + k by omega]
      exact ih hd

/-- HEX_CHECK finds the digits in the order of the characters. -/
theorem getElem?_of_hexDigits {r : Request} {ds : List Nibble} (h : hexDigits r = some ds) {j : Nat} {c : Byte} {v : Nibble}
    (hc : r[j]? = some c) (hv : romHexVal c = some v) : ds[j]? = some v := by
  have hj := congrArg (·[j]?) (hexDigits_eq_some.1 h)
  simpa [hc, hv, eq_comm] using hj

/-- Settles O16: character by character, then bit by bit within the digit. -/
theorem expansionIsBigEndian : Obligations.ExpansionIsBigEndian := by
  intro r hhex
  obtain ⟨ds, hds⟩ := Option.isSome_iff_exists.1 (hexDigits_isSome.2 hhex)
  have hbits : hex2bits r = some (ds.flatMap digitBits) := Option.map_eq_some_iff.2 ⟨ds, hds, rfl⟩
  exact ⟨_, hbits, hex2bits_length hbits, fun j c v hc hv k hk => getElem?_flatMap_digitBits (getElem?_of_hexDigits hds hc hv) hk⟩

/-! ## The value of a bit field -/

/-- The low `w` bits of a number, written in base 2, the most significant first. -/
theorem mod_two_pow_eq_sum (n w : Nat) : n % 2 ^ w = ∑ i ∈ Finset.range w, (n.testBit (w - 1 - i)).toNat * 2 ^ (w - 1 - i) := by
  rw [Finset.sum_range_reflect fun i => (n.testBit i).toNat * 2 ^ i]
  induction w with
  | zero => simp [Nat.mod_one]
  | succ w ih => rw [Finset.sum_range_succ, ← ih, Nat.mod_pow_succ, Nat.toNat_testBit, Nat.mul_comm]

/-- Bit `i` of a field, counted from its front, is bit `a + i` of the frame. -/
theorem field_toNat_eq_sum (F : Frame) {a b : Nat} (hab : a < b) (hb : b ≤ 112) :
    (field F a b).toNat = ∑ k ∈ Finset.Ico a b, (F.getLsbD (111 - k)).toNat * 2 ^ (b - 1 - k) := by
  rw [field_toNat, mod_two_pow_eq_sum, Finset.sum_Ico_eq_sum_range]
  refine Finset.sum_congr rfl fun i hi => ?_
  have hi : i < b - a := Finset.mem_range.1 hi
  rw [Nat.testBit_div_two_pow, BitVec.testBit_toNat, show b - a - 1 - i + (112 - b) = 111 - (a + i) by omega,
    show b - 1 - (a + i) = b - a - 1 - i by omega]

/-- Settles O18: the sum is the quotient and remainder of the frame's number, written in base 2. -/
theorem fieldIsUnsignedBigEndian : Obligations.FieldIsUnsignedBigEndian :=
  fun F a b hab hb => ⟨field_toNat_eq_sum F hab hb, field_toNat F a b⟩

/-- Settles O19: each slice is a field of the frame. -/
theorem slicesStandWhereR106Says : Obligations.SlicesStandWhereR106Says :=
  fun F => ⟨field_toNat F 8 32, field_toNat F 32 37, field_toNat F 37 40, field_toNat F 40 88, field_toNat F 40 52, field_toNat F 53 63,
    field_toNat F 54 71, field_toNat F 71 88⟩

end Sys2Proof.Proofs.HexAndFrame
end

section
/-! The field decoders in the records that they fill (41_field_decoders.md): which rows carry a category, a velocity, an altitude or a
position, with the value each decoder gives, and the identification string that every record carries. -/

namespace Sys2Proof.Proofs.FieldDecoders

open Sys2Proof.Machine

/-! ## The operands that overlap the identification payload -/

theorem airborneOps_wf_iff {o : AirborneOps} : o.wf = true ↔
    o.altc = o.idp.extractLsb' 36 12 ∧ o.rlat = o.idp.extractLsb' 17 17 ∧ o.rlon = o.idp.extractLsb' 0 17 := by
  simp only [AirborneOps.wf, Bool.and_eq_true, beq_iff_eq, and_assoc]

theorem velocityOps_wf_iff {o : VelocityOps} : o.wf = true ↔ o.vraw = o.idp.extractLsb' 25 10 := by
  rw [VelocityOps.wf, beq_iff_eq]

/-! ## The payload that a row answers with -/

/-- The category shares no bits with another operand, so this holds of every instruction, well-formed or not. -/
theorem answers_cat (i : Instr) (s : State) : ∃ rec, Answers i s rec ∧
    rec.cat? = if 1 ≤ i.layout.tc.toNat ∧ i.layout.tc.toNat ≤ 4 then some i.layout.low3 else none := by
  cases i <;> exact ⟨_, ⟨rfl, rfl⟩, rfl⟩

theorem answers_velKt {i : Instr} (h : i.wf = true) (s : State) : ∃ rec, Answers i s rec ∧
    rec.velKt? = if i.layout.tc.toNat = 19 then some (i.layout.idp.extractLsb' 25 10) else none := by
  cases i with
  | tc19AirborneVel o => exact ⟨_, ⟨rfl, rfl⟩, congrArg some (velocityOps_wf_iff.1 h)⟩
  | _ => exact ⟨_, ⟨rfl, rfl⟩, rfl⟩

theorem answers_altFt {i : Instr} (h : i.wf = true) (s : State) : ∃ rec, Answers i s rec ∧
    rec.altFt? = if 9 ≤ i.layout.tc.toNat ∧ i.layout.tc.toNat ≤ 18 then some (altDecode (i.layout.idp.extractLsb' 36 12))
      else none := by
  cases i with
  | tc9AirbornePos o | tc10AirbornePos o | tc11AirbornePos o | tc12AirbornePos o | tc13AirbornePos o | tc14AirbornePos o
  | tc15AirbornePos o | tc16AirbornePos o | tc17AirbornePos o | tc18AirbornePos o =>
    exact ⟨_, ⟨rfl, rfl⟩, congrArg (some <| altDecode ·) (airborneOps_wf_iff.1 h).1⟩
  | _ => exact ⟨_, ⟨rfl, rfl⟩, rfl⟩

/-- Settles O37: the type codes 1 to 4 are those of the IDENT rows, and CAT_DECODE leaves their operand as it is. -/
theorem categoryOnlyInIdentRecords : Obligations.CategoryOnlyInIdentRecords := by
  intro i s
  obtain ⟨rec, hrec, hcat⟩ := answers_cat i s
  exact ⟨rec, hrec, fun h => by rw [hcat, if_pos h], fun h => by rw [hcat, if_neg (by omega)]⟩

/-- Settles O38: the operand of a well-formed velocity row is the payload's ten bits, and VEL_DECODE leaves it as it is. -/
theorem velocityIsRawMagnitude : Obligations.VelocityIsRawMagnitude := by
  intro i s hwf
  obtain ⟨rec, hrec, hvel⟩ := answers_velKt hwf s
  refine ⟨rec, hrec, fun h => ⟨_, by rw [hvel, if_pos h], ?_⟩, fun h => by rw [hvel, if_neg h]⟩
  rw [BitVec.extractLsb'_toNat, Nat.shiftRight_eq_div_pow]

/-- Settles O39: the altitude code of a well-formed airborne row is the payload's top twelve bits, and ALT_DECODE is linear in it from 40
on. -/
theorem altitudeIsClampedLinear : Obligations.AltitudeIsClampedLinear := by
  intro i s hwf
  obtain ⟨rec, hrec, halt⟩ := answers_altFt hwf s
  refine ⟨rec, hrec, fun h => ⟨_, by rw [halt, if_pos h], ?_⟩, fun h => by rw [halt, if_neg (by omega)]⟩
  have hidp := i.layout.idp.isLt
  rw [altDecode_toNat, BitVec.extractLsb'_toNat, Nat.shiftRight_eq_div_pow]
  omega

/-! ## The position of the surface and the airborne rows -/

theorem answers_pos_surface {o : SurfaceOps} {i : Instr}
    (h : i ∈ [.tc5SurfacePos o, .tc6SurfacePos o, .tc7SurfacePos o, .tc8SurfacePos o]) (s : State) :
    ∃ rec, Answers i s rec ∧ rec.pos? = some (posDecode o.rlat o.rlon) := by
  fin_cases h <;> exact ⟨_, ⟨rfl, rfl⟩, rfl⟩

theorem answers_pos_airborne {o : AirborneOps} {i : Instr}
    (h : i ∈ [.tc9AirbornePos o, .tc10AirbornePos o, .tc11AirbornePos o, .tc12AirbornePos o, .tc13AirbornePos o, .tc14AirbornePos o,
      .tc15AirbornePos o, .tc16AirbornePos o, .tc17AirbornePos o, .tc18AirbornePos o]) (s : State) :
    ∃ rec, Answers i s rec ∧ rec.pos? = some (posDecode o.rlat o.rlon) := by
  fin_cases h <;> exact ⟨_, ⟨rfl, rfl⟩, rfl⟩

/-- Settles O41: rows of both families answer with POS_DECODE of their two codes. -/
theorem surfaceAndAirborneShareOnePositionRoutine : Obligations.SurfaceAndAirborneShareOnePositionRoutine := by
  intro a b s i j hlat hlon hi hj
  obtain ⟨rec, hrec, hpos⟩ := answers_pos_surface hi s
  obtain ⟨rec', hrec', hpos'⟩ := answers_pos_airborne hj s
  rw [← hlat, ← hlon] at hpos'
  exact ⟨_, rec, rec', hrec, hrec', hpos, hpos'⟩

/-! ## The identification string of a frame -/

/-- The header is made before the kind is looked at. -/
theorem header_recordOf (F : Frame) :
    (recordOf F).header = header (dispatch (slice F).tc) (slice F).tc (slice F).icao (slice F).idp := by
  simp only [recordOf]
  cases dispatch (slice F).tc <;> rfl

/-- The `k`-th 6-bit group of the payload is the `k`-th 6-bit field of the frame from bit 40 on. -/
theorem idRaw_field (F : Frame) : idRaw (field F 40 88) = [romIdChar (field F 40 46), romIdChar (field F 46 52),
    romIdChar (field F 52 58), romIdChar (field F 58 64), romIdChar (field F 64 70), romIdChar (field F 70 76),
    romIdChar (field F 76 82), romIdChar (field F 82 88)] := by
  rw [field_in_idp F (a := 40) (b := 46), field_in_idp F (a := 46) (b := 52), field_in_idp F (a := 52) (b := 58),
    field_in_idp F (a := 58) (b := 64), field_in_idp F (a := 64) (b := 70), field_in_idp F (a := 70) (b := 76),
    field_in_idp F (a := 76) (b := 82), field_in_idp F (a := 82) (b := 88)]
  · rfl
  all_goals decide

/-- Settles O43: the record of a frame has the string of the payload's groups in its header, whatever its kind. -/
theorem identificationIsTrimmedLookup : Obligations.IdentificationIsTrimmedLookup := by
  intro s r rest q F hruns hF
  exact ⟨recordOf F, Dispatch.step_of_runs_loadFrame hruns hF,
    (congrArg Header.idChars (header_recordOf F)).trans (congrArg trim (idRaw_field F))⟩

end Sys2Proof.Proofs.FieldDecoders
end

section
/-! The dispatch of the type code (42_type_code_dispatch.md section 1): a step is R170's DECODE, the type code gives exactly the kind of
its range in R171, and each row of the opcode table answers a record with R172's header. -/

namespace Sys2Proof.Proofs.TypeCodeDispatch

open Sys2Proof.Machine

/-! ## A step against DECODE -/

/-- Settles O6: DECODE and the step both turn on whether the request loads a frame. -/
theorem stepImplementsDecode : Obligations.StepImplementsDecode := by
  intro s r rest q hruns
  cases hF : loadFrame r with
  | error e => rw [HexAndFrame.step_of_runs_loadFrame_error hruns hF, decodeResponse, hF]
  | ok F => rw [Dispatch.step_of_runs_loadFrame hruns hF, decodeResponse, hF]

/-! ## The ranges of R171 -/

theorem dispatch_eq_nopos : ∀ tc : BitVec 5, dispatch tc = .nopos ↔ tc.toNat = 0 := by
  decide

theorem dispatch_eq_ident : ∀ tc : BitVec 5, dispatch tc = .ident ↔ 1 ≤ tc.toNat ∧ tc.toNat ≤ 4 := by
  decide

theorem dispatch_eq_surfacePos : ∀ tc : BitVec 5, dispatch tc = .surfacePos ↔ 5 ≤ tc.toNat ∧ tc.toNat ≤ 8 := by
  decide

theorem dispatch_eq_airbornePos : ∀ tc : BitVec 5, dispatch tc = .airbornePos ↔ 9 ≤ tc.toNat ∧ tc.toNat ≤ 18 := by
  decide

theorem dispatch_eq_airborneVel : ∀ tc : BitVec 5, dispatch tc = .airborneVel ↔ tc.toNat = 19 := by
  decide

theorem dispatch_ne_unknown : ∀ tc : BitVec 5, dispatch tc ≠ .unknown := by
  decide

theorem header_tc_recordOf (F : Frame) : (recordOf F).header.tc = field F 32 37 :=
  congrArg Header.tc (FieldDecoders.header_recordOf F)

theorem header_kind_recordOf (F : Frame) : (recordOf F).header.kind = (recordOf F).variant :=
  (congrArg Header.kind (FieldDecoders.header_recordOf F)).trans (Dispatch.variant_recordOf F).symm

/-- The variant of a frame's record is the kind that the type code in its header dispatches to. -/
theorem variant_recordOf_eq_dispatch_header_tc (F : Frame) : (recordOf F).variant = dispatch (recordOf F).header.tc := by
  rw [Dispatch.variant_recordOf, header_tc_recordOf, slice]

/-- Settles O26: the request loads a frame, and the variant of the frame's record is what the type code dispatches to. -/
theorem dispatchIsTotalOverTypeCodes : Obligations.DispatchIsTotalOverTypeCodes := by
  intro s r rest q hruns hlen hhex
  obtain ⟨F, hF⟩ := loadFrame_isOk hhex hlen
  refine ⟨recordOf F, Dispatch.step_of_runs_loadFrame hruns hF, header_kind_recordOf F, ?_⟩
  rw [variant_recordOf_eq_dispatch_header_tc]
  exact ⟨dispatch_eq_nopos _, dispatch_eq_ident _, dispatch_eq_surfacePos _, dispatch_eq_airbornePos _, dispatch_eq_airborneVel _,
    Dispatch.dispatch_eq_reserved _, Dispatch.dispatch_eq_test _, Dispatch.dispatch_eq_extSquitter _, dispatch_ne_unknown _,
    F, hF, header_tc_recordOf F⟩

/-! ## The header's ICAO digits -/

theorem getElem?_hexDigits_romHexDigit : ∀ d : Nibble, (ascii "0123456789ABCDEF")[d.toNat]? = some (romHexDigit d) := by
  decide

/-- The bits of the address, front first, are those of its six nibbles in order. -/
theorem map_getMsbD_eq_flatMap_digitBits (icao : BitVec 24) : (List.range 24).map icao.getMsbD =
    ((List.range 6).map fun j => icao.extractLsb' (20 - 4 * j) 4).flatMap digitBits := by
  simp [List.range_succ, digitBits, BitVec.getMsbD]

theorem icaoHex_eq_map_romHexDigit (icao : BitVec 24) :
    icaoHex icao = (List.range 6).map fun j => romHexDigit (icao.extractLsb' (20 - 4 * j) 4) := by
  rw [icaoHex, map_getMsbD_eq_flatMap_digitBits, Encoding.bits2hex_flatMap_digitBits, List.map_map]
  rfl

/-- Digit `j` of the address, counted from the front, in base 16. -/
theorem getElem?_icaoHex (icao : BitVec 24) {j : Nat} (hj : j < 6) :
    (icaoHex icao)[j]? = (ascii "0123456789ABCDEF")[icao.toNat / 16 ^ (5 - j) % 16]? := by
  have hdigit : (icao.extractLsb' (20 - 4 * j) 4).toNat = icao.toNat / 16 ^ (5 - j) % 16 := by
    rw [BitVec.extractLsb'_toNat, Nat.shiftRight_eq_div_pow, show 20 - 4 * j = 4 * (5 - j) by omega, pow_mul]
    rfl
  rw [← hdigit, getElem?_hexDigits_romHexDigit, icaoHex_eq_map_romHexDigit]
  simp [hj]

/-! ## The header's identification string -/

theorem getElem?_idAlphabet : ∀ k : BitVec 6, idAlphabet[k.toNat]? = some (romIdChar k) := by
  decide

/-- Character `k` before trimming is the alphabet's at digit `k` of the payload, counted from the front, in base 64. -/
theorem getElem?_idRaw (idp : BitVec 48) {k : Nat} (hk : k < 8) :
    (idRaw idp)[k]? = idAlphabet[idp.toNat / 64 ^ (7 - k) % 64]? := by
  have hgroup : (idp.extractLsb' (42 - 6 * k) 6).toNat = idp.toNat / 64 ^ (7 - k) % 64 := by
    rw [BitVec.extractLsb'_toNat, Nat.shiftRight_eq_div_pow, show 42 - 6 * k = 6 * (7 - k) by omega, pow_mul]
    rfl
  rw [← hgroup, getElem?_idAlphabet]
  simp [idRaw, idGroups, hk]

/-- `trim` takes a run of blanks off each end. -/
theorem replicate_append_trim_append_replicate (raw : List Byte) :
    ∃ a b, raw = List.replicate a blank ++ trim raw ++ List.replicate b blank := by
  obtain ⟨a, ha⟩ := replicate_append_dropWhile raw
  obtain ⟨b, hb⟩ := replicate_append_dropWhile (raw.dropWhile (· == blank)).reverse
  have hsplit : raw.dropWhile (· == blank) = trim raw ++ List.replicate b blank := by
    simpa [trim] using congrArg List.reverse hb
  exact ⟨a, b, by rw [List.append_assoc, ← hsplit, ← ha]⟩

theorem isTrimOf_trim (raw : List Byte) : IsTrimOf raw (trim raw) :=
  ⟨replicate_append_trim_append_replicate raw, Invariant.head?_trim raw, Invariant.getLast?_trim raw⟩

/-! ## The header as a whole -/

/-- HEADER(kind) gives the header of R172, for every kind, type code, address and payload. -/
theorem headerOf_header {kind : RecordKind} {description : String} (hdesc : romDesc kind = ascii description) (tc : BitVec 5)
    (icao : BitVec 24) (idp : BitVec 48) :
    HeaderOf (header kind tc icao idp) kind kind.code.toNat description tc icao idp where
  icao_eq := rfl
  tc_eq := rfl
  kind_eq := rfl
  code_eq := rfl
  description_eq := hdesc
  icaoHex_length := length_icaoHex icao
  icaoHex_digit := fun _ hj => getElem?_icaoHex icao hj
  idLen_eq := header_idLen_toNat kind tc icao idp
  id_trim := ⟨idRaw idp, length_idRaw idp, fun _ hk => getElem?_idRaw idp hk, isTrimOf_trim _⟩

/-! ## The rows of each family

Every row of a family answers the family's record, with its own type code in the header. -/

/-- Settles O30: CAT_DECODE leaves the category as it stands. -/
theorem identRowsAnswerIdentRecord : Obligations.IdentRowsAnswerIdentRecord := by
  intro o s p hp
  have hrow : Answers p.2 s (identRecord p.1 o) := by fin_cases hp <;> exact ⟨rfl, rfl⟩
  exact ⟨_, headerOf_header rfl p.1 o.icao o.idp, hrow⟩

/-- Settles O31: POS_DECODE of the two codes does not wrap. -/
theorem surfaceRowsAnswerSurfaceRecord : Obligations.SurfaceRowsAnswerSurfaceRecord := by
  intro o s p hp
  have hrow : Answers p.2 s (surfacePosRecord p.1 o) := by fin_cases hp <;> exact ⟨rfl, rfl⟩
  exact ⟨_, _, headerOf_header rfl p.1 o.icao o.idp, hrow, posDecode_latQ17_toInt .., posDecode_lonQ17_toInt ..⟩

/-- Settles O32: POS_DECODE does not wrap, and ALT_DECODE's clamp is the truncated subtraction. -/
theorem airborneRowsAnswerAirborneRecord : Obligations.AirborneRowsAnswerAirborneRecord := by
  intro o s p hp
  have hrow : Answers p.2 s (airbornePosRecord p.1 o) := by fin_cases hp <;> exact ⟨rfl, rfl⟩
  have halt : ((altDecode o.altc).toNat : Int) = max 0 (25 * (o.altc.toNat : Int) - 1000) := by
    rw [altDecode_toNat]
    omega
  exact ⟨_, _, _, headerOf_header rfl p.1 o.icao o.idp, hrow, halt, posDecode_latQ17_toInt .., posDecode_lonQ17_toInt ..⟩

/-- Settles O33: VEL_DECODE leaves the speed as it stands. -/
theorem velocityRowAnswersVelocityRecord : Obligations.VelocityRowAnswersVelocityRecord :=
  fun o _ => ⟨_, headerOf_header rfl 19 o.icao o.idp, rfl, rfl⟩

/-- Settles O34: the reserved rows answer `reservedRecord`. -/
theorem reservedRowsAnswerReservedRecord : Obligations.ReservedRowsAnswerReservedRecord := by
  intro o s p hp
  have hrow : Answers p.2 s (reservedRecord p.1 o) := by fin_cases hp <;> exact ⟨rfl, rfl⟩
  exact ⟨_, headerOf_header rfl p.1 o.icao o.idp, hrow⟩

/-- Settles O35: the test rows answer `testRecord`. -/
theorem testRowsAnswerTestRecord : Obligations.TestRowsAnswerTestRecord := by
  intro o s p hp
  have hrow : Answers p.2 s (testRecord p.1 o) := by fin_cases hp <;> exact ⟨rfl, rfl⟩
  exact ⟨_, headerOf_header rfl p.1 o.icao o.idp, hrow⟩

/-- Settles O36: the extended squitter rows answer `extSquitterRecord`. -/
theorem extSquitterRowsAnswerExtSquitterRecord : Obligations.ExtSquitterRowsAnswerExtSquitterRecord := by
  intro o s p hp
  have hrow : Answers p.2 s (extSquitterRecord p.1 o) := by fin_cases hp <;> exact ⟨rfl, rfl⟩
  exact ⟨_, headerOf_header rfl p.1 o.icao o.idp, hrow⟩

end Sys2Proof.Proofs.TypeCodeDispatch
end

section
/-! The block between transactions (60_exceptions.md section 4, R212): with no host event and no request in progress there is nothing
for a step to do. -/

namespace Sys2Proof.Proofs.Exceptions

open Sys2Proof.Machine

/-- Settles O5: the idle case of a step, on the reference model's instance. -/
theorem idleBlockStaysAsItIs : Obligations.IdleBlockStaysAsItIs :=
  fun _ hinputs hinProgress => stepWith_idle .reference hinProgress hinputs

end Sys2Proof.Proofs.Exceptions
end

section
/-! The order of takings, answers and resets (70_reset_and_hazards.md). Every step on a plain host event brings the block nearer to
idleness and leaves the list of responses that the run will end with as it is, so the run ends with that list. -/

namespace Sys2Proof.Proofs.ResetAndHazards

open Sys2Proof.Machine

/-! ## The steps that answer nothing -/

section events
variable {s : State} {rest : List HostEvent}

/-- A taking may fall at any moment, and the reference model admits every request. -/
theorem step_take {r : Request} (hi : s.inputs = .take r :: rest) : step s = .next (takeRequest r rest s) := by
  rw [step, stepWith_event _ hi (.inl rfl)]
  rfl

theorem step_reset (hi : s.inputs = .reset :: rest) : step s = .next (resetBlock rest s) :=
  stepWith_event .reference hi (.inl rfl)

/-- With no request in progress a waiting passes (log 10). -/
theorem step_wait_idle (hi : s.inputs = .wait :: rest) (hp : s.inProgress = []) : step s = .next (passEvent rest s) := by
  rw [step, stepWith_event _ hi (.inl rfl)]
  simp [handleEvent, answerOldest, hp]

end events

/-- Settles O10: taking the request is all that the step does. -/
theorem takenRequestStaysInProgress : Obligations.TakenRequestStaysInProgress :=
  fun _ _ _ hi => step_take hi

/-! ## What is due, and how much is left to do -/

/-- The responses that the host will have once everything it has presented is worked off: those given already, and one for each
request that no reset abandons. -/
def due (s : State) : List Response := s.given ++ (answeredRequests s.inProgress s.inputs).map decodeResponse

/-- A bound on the steps left: each host event takes one, and may leave a request in progress that takes another. -/
def work (s : State) : Nat := 2 * s.inputs.length + s.inProgress.length

theorem work_eq_zero {s : State} : work s = 0 ↔ s.inputs = [] ∧ s.inProgress = [] := by
  simp [work]

theorem due_of_work_eq_zero {s : State} (h : work s = 0) : due s = s.given := by
  obtain ⟨hi, hp⟩ := work_eq_zero.1 h
  simp [due, hi, hp, answeredRequests]

/-- The step from `s` to `t` takes no event but the next one, leaves what is due as it is, and does some of the work. -/
structure Progress (s t : State) : Prop where
  step_eq : step s = .next t
  inputs_suffix : t.inputs <:+ s.inputs
  due_eq : due t = due s
  work_lt : work t < work s

/-! ## Every step on a plain event makes progress -/

section progress
variable {s : State} {r : Request} {rest : List HostEvent} {q : List Request}

/-- The request that a step runs is the next of those that get a response. -/
theorem answeredRequests_of_runs (h : Runs s r rest q) :
    answeredRequests s.inProgress s.inputs = r :: answeredRequests q rest := by
  rcases h with ⟨hp, rfl, hi⟩ | ⟨hp, hi⟩ | ⟨hp, rfl, hover⟩
  · simp [hp, hi, answeredRequests]
  · simp [hp, hi, answeredRequests]
  · rw [hp]
    cases hi : s.inputs with
    | nil => rfl
    | cons e es =>
      have he : overlaps e = false := hover e (by simp [hi])
      cases e with
      | request _ | requestChanged _ _ => rfl
      | reset | take _ | wait | read _ => cases he

theorem inputs_suffix_of_runs (h : Runs s r rest q) : rest <:+ s.inputs := by
  rcases h with ⟨-, -, hi⟩ | ⟨-, hi⟩ | ⟨-, hi, -⟩ <;> simp [hi]

theorem work_answered_lt_of_runs (h : Runs s r rest q) (resp : Response) : work (answered s rest q resp) < work s := by
  rcases h with ⟨hp, rfl, hi⟩ | ⟨hp, hi⟩ | ⟨hp, hi, -⟩
  · simp [work, answered, hp, hi]
  · simp [work, answered, hp, hi]
    omega
  · simp [work, answered, hp, hi]

/-- The response moves from those that are due to those that are given. -/
theorem progress_of_runs (h : Runs s r rest q) : Progress s (answered s rest q (decodeResponse r)) where
  step_eq := TypeCodeDispatch.stepImplementsDecode s r rest q h
  inputs_suffix := inputs_suffix_of_runs h
  due_eq := by simp [due, answered, answeredRequests_of_runs h]
  work_lt := work_answered_lt_of_runs h _

theorem progress_take (hi : s.inputs = .take r :: rest) : Progress s (takeRequest r rest s) where
  step_eq := step_take hi
  inputs_suffix := by simp [hi]
  due_eq := by simp [due, hi, answeredRequests]
  work_lt := by simp [work, hi]; omega

theorem progress_reset (hi : s.inputs = .reset :: rest) : Progress s (resetBlock rest s) where
  step_eq := step_reset hi
  inputs_suffix := by simp [hi]
  due_eq := by simp [due, hi, answeredRequests]
  work_lt := by simp [work, hi]; omega

theorem progress_wait_idle (hi : s.inputs = .wait :: rest) (hp : s.inProgress = []) : Progress s (passEvent rest s) where
  step_eq := step_wait_idle hi hp
  inputs_suffix := by simp [hi]
  due_eq := by simp [due, hi, hp, answeredRequests]
  work_lt := by simp [work, hi]

end progress

/-- While there is work, a step does some of it: it answers the oldest request where the next event comes after that answer, and handles
the event otherwise. -/
theorem exists_progress {s : State} (hplain : ∀ e ∈ s.inputs, e.plain = true) (hwork : work s ≠ 0) : ∃ t, Progress s t := by
  cases hi : s.inputs with
  | nil =>
    cases hp : s.inProgress with
    | nil => exact absurd (work_eq_zero.2 ⟨hi, hp⟩) hwork
    | cons r q => exact ⟨_, progress_of_runs (.inr (.inr ⟨hp, hi, by simp⟩))⟩
  | cons e rest =>
    have he : e.plain = true := hplain e (by simp [hi])
    cases e with
    | reset => exact ⟨_, progress_reset hi⟩
    | take r => exact ⟨_, progress_take hi⟩
    | wait =>
      cases hp : s.inProgress with
      | nil => exact ⟨_, progress_wait_idle hi hp⟩
      | cons r q => exact ⟨_, progress_of_runs (.inr (.inl ⟨hp, hi⟩))⟩
    | request _ =>
      cases hp : s.inProgress with
      | nil => exact ⟨_, progress_of_runs (.inl ⟨hp, rfl, hi⟩)⟩
      | cons r q => exact ⟨_, progress_of_runs (.inr (.inr ⟨hp, hi, by simp [overlaps]⟩))⟩
    | requestChanged _ _ | read _ => cases he

/-! ## The whole run -/

theorem run_succ_of_step {s t : State} (h : step s = .next t) (k : Nat) : core.run (k + 1) s = core.run k t := by
  have hcore : core.step s = .next t := h
  simp [Host.Core.run, hcore]

/-- On plain events the block runs until no work is left, and what is due is the same at the end. -/
theorem exists_run_worked_off (s : State) (hplain : ∀ e ∈ s.inputs, e.plain = true) :
    ∃ k t, core.run k s = .next t ∧ work t = 0 ∧ due t = due s := by
  by_cases hwork : work s = 0
  · exact ⟨0, s, rfl, hwork, rfl⟩
  · obtain ⟨u, hstep, hsuffix, hdue, hlt⟩ := exists_progress hplain hwork
    obtain ⟨k, t, hrun, ht, htdue⟩ := exists_run_worked_off u fun e he => hplain e (hsuffix.subset he)
    exact ⟨k + 1, t, (run_succ_of_step hstep k).trans hrun, ht, htdue.trans hdue⟩
termination_by work s

/-- Settles O8: what is due stays the same along the run, and at its end it is what has been given. -/
theorem runAnswersEveryRequestInOrder : Obligations.RunAnswersEveryRequestInOrder := by
  intro s hplain
  obtain ⟨k, t, hrun, hwork, hdue⟩ := exists_run_worked_off s hplain
  obtain ⟨hi, hp⟩ := work_eq_zero.1 hwork
  exact ⟨k, t, hrun, hi, hp, (due_of_work_eq_zero hwork).symm.trans hdue⟩

end Sys2Proof.Proofs.ResetAndHazards
end

section
/-! Instructions, requests and frames (30_encoding.md, 40_hex_and_frame.md): the encoder before the decoder, the requests that decode, and
where the digits of a request stand in its frame. -/

namespace Sys2Proof.Proofs.RoundTrip

open Sys2Proof.Machine

/-! ## Decode after encode -/

/-- The per-row round trips, put together: the frame of a well-formed instruction is one that decodes to it. -/
theorem decodeFrame_encodeFrame_of_wf {i : Instr} (h : i.wf = true) : decodeFrame (encodeFrame i) = i := by
  cases i with
  | tc0Nopos o => exact Laws.RoundTrip.tc0Nopos o h
  | tc1Ident o => exact Laws.RoundTrip.tc1Ident o h
  | tc2Ident o => exact Laws.RoundTrip.tc2Ident o h
  | tc3Ident o => exact Laws.RoundTrip.tc3Ident o h
  | tc4Ident o => exact Laws.RoundTrip.tc4Ident o h
  | tc5SurfacePos o => exact Laws.RoundTrip.tc5SurfacePos o h
  | tc6SurfacePos o => exact Laws.RoundTrip.tc6SurfacePos o h
  | tc7SurfacePos o => exact Laws.RoundTrip.tc7SurfacePos o h
  | tc8SurfacePos o => exact Laws.RoundTrip.tc8SurfacePos o h
  | tc9AirbornePos o => exact Laws.RoundTrip.tc9AirbornePos o h
  | tc10AirbornePos o => exact Laws.RoundTrip.tc10AirbornePos o h
  | tc11AirbornePos o => exact Laws.RoundTrip.tc11AirbornePos o h
  | tc12AirbornePos o => exact Laws.RoundTrip.tc12AirbornePos o h
  | tc13AirbornePos o => exact Laws.RoundTrip.tc13AirbornePos o h
  | tc14AirbornePos o => exact Laws.RoundTrip.tc14AirbornePos o h
  | tc15AirbornePos o => exact Laws.RoundTrip.tc15AirbornePos o h
  | tc16AirbornePos o => exact Laws.RoundTrip.tc16AirbornePos o h
  | tc17AirbornePos o => exact Laws.RoundTrip.tc17AirbornePos o h
  | tc18AirbornePos o => exact Laws.RoundTrip.tc18AirbornePos o h
  | tc19AirborneVel o => exact Laws.RoundTrip.tc19AirborneVel o h
  | tc20Reserved o => exact Laws.RoundTrip.tc20Reserved o h
  | tc21Reserved o => exact Laws.RoundTrip.tc21Reserved o h
  | tc22Reserved o => exact Laws.RoundTrip.tc22Reserved o h
  | tc23Test o => exact Laws.RoundTrip.tc23Test o h
  | tc24Test o => exact Laws.RoundTrip.tc24Test o h
  | tc25Test o => exact Laws.RoundTrip.tc25Test o h
  | tc26Test o => exact Laws.RoundTrip.tc26Test o h
  | tc27Test o => exact Laws.RoundTrip.tc27Test o h
  | tc28ExtSquitter o => exact Laws.RoundTrip.tc28ExtSquitter o h
  | tc29ExtSquitter o => exact Laws.RoundTrip.tc29ExtSquitter o h
  | tc30ExtSquitter o => exact Laws.RoundTrip.tc30ExtSquitter o h
  | tc31ExtSquitter o => exact Laws.RoundTrip.tc31ExtSquitter o h

/-- Any frame's canonical request decodes, to the instruction of the frame. -/
theorem decode_frameRequest (F : Frame) : decode (frameRequest F) = .ok (decodeFrame F) :=
  decode_ok.2 ⟨F, loadFrame_frameRequest F, rfl⟩

/-- Settles O22: the canonical request of the instruction's frame loads that frame, and the frame decodes to the instruction. -/
theorem decodeOfEncodeIsIdentity : Obligations.DecodeOfEncodeIsIdentity := by
  intro i hwf
  rw [encode, decode_frameRequest, decodeFrame_encodeFrame_of_wf hwf]

/-- A word of the opcode table is a frame, so it is read through its canonical request. -/
theorem decodeTableWord_eq (nbits w : Nat) :
    decodeTableWord nbits w = some (decodeFrame (BitVec.ofNat 112 (w % 2 ^ nbits))) := by
  rw [decodeTableWord, tableRequest, decode_frameRequest]
  rfl

/-- Settles O25: each word is the frame whose slices are the operands. -/
theorem wordsDecodeToTheirRows : Obligations.WordsDecodeToTheirRows := by
  simp only [Obligations.WordsDecodeToTheirRows, decodeTableWord_eq]
  decide

/-! ## Hex digits and the requests that decode -/

/-- The digits of both spellings have the value of their place. -/
theorem romHexVal_digit : ∀ v : Nibble, (ascii "0123456789ABCDEF")[v.toNat]?.bind romHexVal = some v ∧
    (ascii "0123456789abcdef")[v.toNat]?.bind romHexVal = some v := by
  decide

theorem digit_of_romHexVal : ∀ c : Byte, ∀ v ∈ romHexVal c, (ascii "0123456789ABCDEF")[v.toNat]? = some c ∨
    (ascii "0123456789abcdef")[v.toNat]? = some c := by
  decide

/-- Settles O13: the table against the two strings of digits, in each direction. -/
theorem hexDigitTable : Obligations.HexDigitTable := by
  refine fun c v => ⟨fun h => digit_of_romHexVal c v h, fun h => ?_⟩
  obtain ⟨hupper, hlower⟩ := romHexVal_digit v
  rcases h with h | h
  · simpa [h] using hupper
  · simpa [h] using hlower

/-- Settles O20: the encoder writes the uppercase spelling of every digit. -/
theorem hexRoundTripIsUppercase : Obligations.HexRoundTripIsUppercase :=
  fun _ _ h => Encoding.bits2hex_of_hex2bits h

/-- The requests that load a frame have passed both checks. -/
theorem length_and_digits_of_loadFrame {r : Request} {F : Frame} (h : loadFrame r = .ok F) :
    r.length = 28 ∧ ∀ c ∈ r, romHexVal c ≠ none := by
  obtain ⟨bs, hbs, hlen, -⟩ := loadFrame_ok.1 h
  have h4 := hex2bits_length hbs
  refine ⟨by omega, fun c hc hn => ?_⟩
  cases hbs.symm.trans (hex2bits_eq_none.2 ⟨c, hc, hn⟩)

/-- Settles O21: a request decodes exactly when it loads a frame. -/
theorem everyFrameDecodes : Obligations.EveryFrameDecodes := by
  refine fun r => ⟨fun ⟨i, hi⟩ => ?_, fun ⟨hlen, hhex⟩ => ?_⟩
  · obtain ⟨F, hF, -⟩ := decode_ok.1 hi
    exact length_and_digits_of_loadFrame hF
  · obtain ⟨F, hF⟩ := loadFrame_isOk hhex hlen
    exact ⟨decodeFrame F, decode_ok.2 ⟨F, hF, rfl⟩⟩

/-! ## The digits of a request in its frame -/

theorem bitsToNat_digitBits : ∀ d : Nibble, bitsToNat (digitBits d) = d.toNat := by decide

/-- The expansion of a list of digits has the value of those digits in base 16, the first digit most significant. -/
theorem bitsToNat_flatMap_digitBits (ds : List Nibble) : bitsToNat (ds.flatMap digitBits) =
    ∑ j ∈ Finset.range ds.length, (ds[j]?.getD 0).toNat * 16 ^ (ds.length - 1 - j) := by
  induction ds with
  | nil => rfl
  | cons d ds ih =>
    have hpow : 2 ^ (ds.flatMap digitBits).length = 16 ^ ds.length := by rw [length_digitBits, pow_mul]; rfl
    rw [List.flatMap_cons, bitsToNat_append, bitsToNat_digitBits, hpow, ih, List.length_cons, Finset.sum_range_succ', Nat.add_comm]
    simp [Nat.sub_sub, Nat.add_comm 1]

theorem frameLoad_toNat {bs : Bits} (h : bs.length = 112) : (frameLoad bs).toNat = bitsToNat bs := by
  rw [frameLoad, BitVec.toNat_ofNat, Nat.mod_eq_of_lt (h ▸ bitsToNat_lt bs)]

/-- Every digit is the value of the character in its place. -/
theorem getElem?_of_lt_length_hexDigits {r : Request} {ds : List Nibble} (h : hexDigits r = some ds) {j : Nat} (hj : j < ds.length) :
    ∃ c, r[j]? = some c ∧ romHexVal c = ds[j]? := by
  have hjr : j < r.length := hexDigits_length h ▸ hj
  have hmap := congrArg (·[j]?) (hexDigits_eq_some.1 h)
  exact ⟨r[j], List.getElem?_eq_getElem hjr, by simpa [hj, hjr] using hmap⟩

/-- Settles O17: the expansion of the digits, bit by bit in the register, and as one number in base 16. -/
theorem frameRegisterHoldsRequest : Obligations.FrameRegisterHoldsRequest := by
  intro r F hF
  obtain ⟨bs, hbs, hlen, rfl⟩ := loadFrame_ok.1 hF
  obtain ⟨ds, hds, rfl⟩ := Option.map_eq_some_iff.1 hbs
  have h28 : ds.length = 28 := by have := length_digitBits ds; omega
  refine ⟨_, ds, hbs, fun i hi => ?_, h28, fun j hj => getElem?_of_lt_length_hexDigits hds (h28 ▸ hj), ?_⟩
  · rw [frameLoad_getLsbD hlen i hi, List.getElem?_eq_getElem]
  · rw [frameLoad_toNat hlen, bitsToNat_flatMap_digitBits, h28]

/-- The frame bits from place `4 * j` on are those of the digit of character `j`. -/
theorem getLsbD_of_digit {r : Request} {F : Frame} (hF : loadFrame r = .ok F) {j : Nat} {v : Nibble}
    (hv : r[j]?.bind romHexVal = some v) {k : Nat} (hk : k < 4) : F.getLsbD (111 - (4 * j + k)) = v.getLsbD (3 - k) := by
  obtain ⟨bs, hbs, hlen, rfl⟩ := loadFrame_ok.1 hF
  obtain ⟨ds, hds, rfl⟩ := Option.map_eq_some_iff.1 hbs
  obtain ⟨c, hc, hcv⟩ := Option.bind_eq_some_iff.1 hv
  have hbit := HexAndFrame.getElem?_flatMap_digitBits (HexAndFrame.getElem?_of_hexDigits hds hc hcv) hk
  obtain ⟨hplace, hbit⟩ := List.getElem?_eq_some_iff.1 hbit
  rw [frameLoad_getLsbD hlen _ (hlen ▸ hplace), hbit]

/-- Read as a number, those four bits are the digit. -/
theorem field_toNat_of_digit {r : Request} {F : Frame} (hF : loadFrame r = .ok F) {j : Nat} (hj : j < 28) {v : Nibble}
    (hv : r[j]?.bind romHexVal = some v) : (field F (4 * j) (4 * j + 4)).toNat = v.toNat := by
  rw [HexAndFrame.field_toNat_eq_sum F (by omega) (by omega), Finset.sum_Ico_eq_sum_range, ← Nat.mod_eq_of_lt v.isLt,
    HexAndFrame.mod_two_pow_eq_sum, Nat.add_sub_cancel_left]
  refine Finset.sum_congr rfl fun k hk => ?_
  rw [getLsbD_of_digit hF hv (Finset.mem_range.1 hk), BitVec.testBit_toNat, show 4 * j + 4 - 1 - (4 * j + k) = 4 - 1 - k by omega]

/-- Settles O24: the byte's two digits are frame bits [32,36) and [36,40), and the type code ends one bit into the second. -/
theorem typeCodeIsHighBitsOfByteFour : Obligations.TypeCodeIsHighBitsOfByteFour := by
  intro r i hi lo hdec hhi hlo
  obtain ⟨F, hF, rfl⟩ := decode_ok.1 hdec
  have h8 : F.toNat / 2 ^ 76 % 2 ^ 4 = hi.toNat := (field_toNat F 32 36).symm.trans (field_toNat_of_digit hF (j := 8) (by decide) hhi)
  have h9 : F.toNat / 2 ^ 72 % 2 ^ 4 = lo.toNat := (field_toNat F 36 40).symm.trans (field_toNat_of_digit hF (j := 9) (by decide) hlo)
  have htc : (decodeFrame F).layout.tc.toNat = F.toNat / 2 ^ 75 % 2 ^ 5 := by
    rw [decodeFrame, Encoding.layout_rowOf]
    exact field_toNat F 32 37
  have hlow3 : (decodeFrame F).layout.low3.toNat = F.toNat / 2 ^ 72 % 2 ^ 3 := by
    rw [decodeFrame, Encoding.layout_rowOf]
    exact field_toNat F 37 40
  omega

end Sys2Proof.Proofs.RoundTrip
end

section
/-! The reset state, the transaction of a request, and what a step can add to the responses given (10_state.md, 70_reset_and_hazards.md). -/

namespace Sys2Proof.Proofs.Steps

open Sys2Proof.Machine

/-! ## Reset -/

/-- Settles O1: every field of the reset state, and of the port that it shows, by its definition. -/
theorem resetHoldsNothing : Obligations.ResetHoldsNothing := ⟨rfl, rfl⟩

/-- Settles O2: no working value, no response on the port, and none given that could be illegal. -/
theorem resetMeetsInvariant : Obligations.ResetMeetsInvariant := ⟨rfl, rfl, rfl, .inl rfl, nofun⟩

/-- Settles O9: a reset may fall at any moment, and what it does is `resetBlock`. -/
theorem resetAbandonsRequestsInProgress : Obligations.ResetAbandonsRequestsInProgress :=
  fun _ _ hi => ResetAndHazards.step_reset hi

/-! ## The transaction of a request -/

/-- Settles O4: loading the working values finds exactly the bits, the frame and the slices that the request has. -/
theorem stepRunsDecodedInstruction : Obligations.StepRunsDecodedInstruction := by
  intro s r rest q i F bits hruns hbits hF hdec
  rw [Responses.step_of_runs hruns, transact_ok hdec, loadWorking, hbits, hF]
  rfl

/-- A transaction responds with DECODE of its request, in every state. -/
theorem transact_decodeResponse (r : Request) (s : State) : transact r s = .next (respond (decodeResponse r) s) := by
  cases hF : loadFrame r with
  | error e => rw [transact_error (HexAndFrame.decode_of_loadFrame_error hF), decodeResponse, hF]
  | ok F => rw [Dispatch.transact_loadFrame hF, decodeResponse, hF]

/-- Settles O11: the event is handled at once; where the characters differ it is refused, and otherwise it is a request like any
other. -/
theorem changedRequestIsRefused : Obligations.ChangedRequestIsRefused := by
  intro s before after rest hp hi
  have hstep : step s = handleEvent .reference (.requestChanged before after) rest s := stepWith_event _ hi (.inr hp)
  refine ⟨fun hne => ?_, ?_⟩
  · rw [hstep, handleEvent, if_pos hne]
  · rintro rfl
    rw [hstep, handleEvent, if_neg (not_not.2 rfl), if_pos (admits_reference before), transact_decodeResponse]
    simp [respond, takeRequest, answered, hp]

/-! ## The responses that a step adds -/

/-- A transaction that completes has added one legal response. -/
theorem given_of_transact {r : Request} {s t : State} (h : transact r s = .next t) :
    ∃ resp, t.given = s.given ++ [resp] ∧ resp.wf = true := by
  obtain ⟨resp, hr, hwf⟩ := Invariant.transact_next_wf r s
  cases hr.symm.trans h
  exact ⟨resp, rfl, hwf⟩

theorem given_of_answerOldest {s t : State} (h : answerOldest s = .next t) :
    t.given = s.given ∨ ∃ resp, t.given = s.given ++ [resp] ∧ resp.wf = true := by
  rcases answerOldest_cases s with ⟨-, ha⟩ | ⟨r, q, -, ha⟩
  · cases ha.symm.trans h
    exact .inl rfl
  · exact .inr (given_of_transact (ha.symm.trans h))

/-- Whatever the configuration, a step adds one legal response, or none. -/
theorem given_of_stepWith {c : Config} {s t : State} (h : stepWith c s = .next t) :
    t.given = s.given ∨ ∃ resp, t.given = s.given ++ [resp] ∧ resp.wf = true := by
  rcases stepWith_cases c s with ⟨e, rest, -, -, he⟩ | ⟨-, ha⟩
  · rcases handleEvent_next (he.symm.trans h) with ⟨r, -, htr⟩ | ⟨r, -, rfl⟩ | ⟨-, ha⟩ | ⟨f, v, -, -, rfl⟩ | ⟨-, rfl⟩
    · exact .inr (by simpa using given_of_transact htr)
    · exact .inl rfl
    · simpa using given_of_answerOldest ha
    · exact .inl rfl
    · exact .inl rfl
  · exact given_of_answerOldest (ha.symm.trans h)

theorem status_ne_three (resp : Response) : resp.status ≠ 3 := by
  cases resp with
  | ok rec => exact (by decide : (0 : BitVec 2) ≠ 3)
  | error e => cases e <;> decide

theorem code_le_seven {kind : RecordKind} (h : kind ≠ .unknown) : kind.code.toNat ≤ 7 := by
  cases kind with
  | unknown => exact absurd rfl h
  | _ => decide

/-- `Record.wf` clause by clause: the way back of `Invariant.record_wf`, without its payload. -/
theorem header_and_kind_of_wf {rec : Record} (h : rec.wf = true) :
    rec.header.wf = true ∧ rec.variant = rec.header.kind ∧ rec.variant ≠ .unknown := by
  simp only [Record.wf, Bool.and_eq_true, decide_eq_true_eq] at h
  obtain ⟨⟨⟨⟨hheader, hkind⟩, hknown⟩, -⟩, -⟩ := h
  exact ⟨hheader, hkind, hknown⟩

/-- Settles O28: the response that a step adds is a legal one, so its kind is known. -/
theorem noStatusThreeAndNoUnknown : Obligations.NoStatusThreeAndNoUnknown := by
  intro s t h
  refine (given_of_stepWith h).imp_right fun ⟨resp, hgiven, hwf⟩ => ⟨resp, hgiven, status_ne_three resp, ?_⟩
  rintro rec rfl
  obtain ⟨-, hkind, hknown⟩ := header_and_kind_of_wf hwf
  exact ⟨hknown, code_le_seven (hkind ▸ hknown)⟩

end Sys2Proof.Proofs.Steps
end

section
/-! The flat port of an answered request (10_state.md R28, 41_field_decoders.md R135): a legal response fits the port's widths, and what the
record does not carry is zero. -/

namespace Sys2Proof.Proofs.FlatPort

open Sys2Proof.Machine

/-- A step that runs a request leaves a legal response on the port. -/
theorem presented_of_runs {s t : State} {r : Request} {rest : List HostEvent} {q : List Request} (h : Runs s r rest q)
    (ht : step s = .next t) : ∃ resp, t.presented = some resp ∧ resp.wf = true := by
  rw [Responses.step_of_runs h] at ht
  obtain ⟨resp, hr, hwf⟩ := Invariant.transact_next_wf r { s with inputs := rest, inProgress := r :: q }
  cases hr.symm.trans ht
  exact ⟨resp, rfl, hwf⟩

theorem flatPort_of_presented {t : State} {resp : Response} (h : t.presented = some resp) : t.flatPort = resp.flat := by
  rw [State.flatPort, h]

/-! ## The strings of a legal header fit their ports -/

section header
variable {h : Header}

theorem length_icaoHex_of_wf (hwf : h.wf = true) : h.icaoHex.length = 6 := by
  obtain ⟨-, hhex, -⟩ := of_decide_eq_true hwf
  rw [hhex, length_icaoHex]

theorem length_description_le_of_wf (hwf : h.wf = true) : h.description.length ≤ 29 := by
  obtain ⟨-, -, hdesc, -⟩ := of_decide_eq_true hwf
  rw [hdesc]
  exact length_romDesc_le h.kind

theorem idLen_of_wf (hwf : h.wf = true) : h.idLen.toNat = h.idChars.length ∧ h.idChars.length ≤ 8 := by
  obtain ⟨-, -, -, hlen, hle, -⟩ := of_decide_eq_true hwf
  exact ⟨hlen, hle⟩

end header

/-! ## The payload fields that a kind lacks -/

section payload
variable {rec : Record}

theorem cat_flat_of_not_carries (h : carries rec.variant .cat = false) : rec.flat.cat = 0 := by
  cases rec with
  | ident _ _ => cases h
  | _ => rfl

theorem latQ17_flat_of_not_carries (h : carries rec.variant .latQ17 = false) : rec.flat.latQ17 = 0 := by
  cases rec with
  | surfacePos _ _ | airbornePos _ _ _ => cases h
  | _ => rfl

theorem lonQ17_flat_of_not_carries (h : carries rec.variant .lonQ17 = false) : rec.flat.lonQ17 = 0 := by
  cases rec with
  | surfacePos _ _ | airbornePos _ _ _ => cases h
  | _ => rfl

theorem altFt_flat_of_not_carries (h : carries rec.variant .altFt = false) : rec.flat.altFt = 0 := by
  cases rec with
  | airbornePos _ _ _ => cases h
  | _ => rfl

theorem velKt_flat_of_not_carries (h : carries rec.variant .velKt = false) : rec.flat.velKt = 0 := by
  cases rec with
  | airborneVel _ _ => cases h
  | _ => rfl

end payload

theorem flat_error (e : DecodeError) :
    (Response.error e).flat = { State.reset.flatPort with status := (Response.error e).flat.status } := rfl

theorem flat_error_status_ne_zero (e : DecodeError) : (Response.error e).flat.status ≠ 0 := by
  cases e <;> decide

/-- Settles O48: by the response on the port. An error drives no field; a legal record drives its own header, whose strings fit, and the
payload of its own variant. -/
theorem flatPortDrivesAbsentFieldsToZero : Obligations.FlatPortDrivesAbsentFieldsToZero := by
  intro s t r rest q hruns ht
  obtain ⟨resp, hp, hwf⟩ := presented_of_runs hruns ht
  rw [flatPort_of_presented hp]
  cases resp with
  | error e => exact ⟨fun h => absurd h (flat_error_status_ne_zero e), fun _ => ⟨⟨e, hp⟩, flat_error e⟩⟩
  | ok rec =>
    refine ⟨fun _ => ⟨rec, hp, ?_⟩, fun h => absurd rfl h⟩
    obtain ⟨hheader, -, -⟩ := Steps.header_and_kind_of_wf hwf
    obtain ⟨hlen, hle⟩ := idLen_of_wf hheader
    refine ⟨⟨rfl, padBytes_of_length (length_icaoHex_of_wf hheader), rfl, rfl, rfl,
        take_padBytes (length_description_le_of_wf hheader)⟩, ?_, ?_, ?_, ?_, cat_flat_of_not_carries, latQ17_flat_of_not_carries, lonQ17_flat_of_not_carries, altFt_flat_of_not_carries,
      velKt_flat_of_not_carries, length_padBytes 8 _, ?_, ?_⟩
    · rintro h cat rfl
      rfl
    · rintro h pos rfl
      exact ⟨rfl, rfl⟩
    · rintro h alt pos rfl
      exact ⟨rfl, rfl, rfl⟩
    · rintro h vel rfl
      rfl
    · exact (congrArg (rec.flat.idChars.take ·) hlen).trans (take_padBytes hle)
    · exact fun j hj hge => getElem?_padBytes hj (hlen ▸ hge)

end Sys2Proof.Proofs.FlatPort
end

section
/-! The values of a record (41_field_decoders.md, 42_type_code_dispatch.md): the position and identification decoders over all their
inputs, the rows that carry a position, and the frame bits that no record depends on. -/

namespace Sys2Proof.Proofs.RecordValues

open Sys2Proof.Machine

/-! ## The row without payload -/

/-- Settles O29: the row answers `noposRecord`, which is a header. -/
theorem noposRowAnswersNoposRecord : Obligations.NoposRowAnswersNoposRecord :=
  fun o _ => ⟨_, TypeCodeDispatch.headerOf_header rfl 0 o.icao o.idp, rfl, rfl⟩

/-! ## Positions -/

/-- Settles O42: both fields are linear in their codes with a positive slope, and no value wraps. -/
theorem positionIsBoundedAndIncreasing : Obligations.PositionIsBoundedAndIncreasing := by
  simp only [Obligations.PositionIsBoundedAndIncreasing, posDecode_latQ17_toInt, posDecode_lonQ17_toInt]
  refine ⟨fun rlat rlon => ?_, by decide, by decide, by decide, by decide, fun a b c hab => ?_⟩
  · have hlat := rlat.isLt
    have hlon := rlon.isLt
    omega
  · have hlt : a.toNat < b.toNat := hab
    omega

theorem surfaceOps_wf_iff {o : SurfaceOps} : o.wf = true ↔
    o.rlat = o.idp.extractLsb' 17 17 ∧ o.rlon = o.idp.extractLsb' 0 17 := by
  simp only [SurfaceOps.wf, Bool.and_eq_true, beq_iff_eq]

theorem answers_pos {i : Instr} (h : i.wf = true) (s : State) : ∃ rec, Answers i s rec ∧
    rec.pos? = if 5 ≤ i.layout.tc.toNat ∧ i.layout.tc.toNat ≤ 18 then
      some (posDecode (i.layout.idp.extractLsb' 17 17) (i.layout.idp.extractLsb' 0 17)) else none := by
  cases i with
  | tc5SurfacePos o | tc6SurfacePos o | tc7SurfacePos o | tc8SurfacePos o =>
    obtain ⟨hlat, hlon⟩ := surfaceOps_wf_iff.1 h
    exact ⟨_, ⟨rfl, rfl⟩, congrArg some (congrArg₂ posDecode hlat hlon)⟩
  | tc9AirbornePos o | tc10AirbornePos o | tc11AirbornePos o | tc12AirbornePos o | tc13AirbornePos o | tc14AirbornePos o
  | tc15AirbornePos o | tc16AirbornePos o | tc17AirbornePos o | tc18AirbornePos o =>
    obtain ⟨-, hlat, hlon⟩ := FieldDecoders.airborneOps_wf_iff.1 h
    exact ⟨_, ⟨rfl, rfl⟩, congrArg some (congrArg₂ posDecode hlat hlon)⟩
  | _ => exact ⟨_, ⟨rfl, rfl⟩, rfl⟩

/-- Settles O40: the position codes of a well-formed row are payload bits [14,31) and [31,48), and POS_DECODE does not wrap. -/
theorem positionAlwaysPresentAndLinear : Obligations.PositionAlwaysPresentAndLinear := by
  intro i s hwf
  obtain ⟨rec, hrec, hpos⟩ := answers_pos hwf s
  refine ⟨rec, hrec, fun h => ⟨_, by rw [hpos, if_pos h], ?_, ?_⟩, fun h => by rw [hpos, if_neg (by omega)]⟩
  · rw [posDecode_latQ17_toInt, BitVec.extractLsb'_toNat, Nat.shiftRight_eq_div_pow]
  · rw [posDecode_lonQ17_toInt, BitVec.extractLsb'_toNat, Nat.shiftRight_zero]

/-! ## The identification string -/

/-- Settles O44: the table against the spelled-out alphabet. -/
theorem identificationAlphabet : Obligations.IdentificationAlphabet := TypeCodeDispatch.getElem?_idAlphabet

theorem dropWhile_replicate_blank_append (n : Nat) (bs : List Byte) :
    (List.replicate n blank ++ bs).dropWhile (· == blank) = bs.dropWhile (· == blank) :=
  List.dropWhile_append_of_pos fun c hc => by simp [List.eq_of_mem_replicate hc]

theorem dropWhile_blank_of_head? {bs : List Byte} (h : bs.head? ≠ some blank) : bs.dropWhile (· == blank) = bs := by
  cases bs with
  | nil => rfl
  | cons c cs => exact List.dropWhile_cons_of_neg (by simpa using h)

/-- Blanks around a string whose ends are none are what `trim` takes off. -/
theorem trim_replicate_append_append_replicate {id : List Byte} (hhead : id.head? ≠ some blank) (hlast : id.getLast? ≠ some blank)
    (a b : Nat) : trim (List.replicate a blank ++ id ++ List.replicate b blank) = id := by
  rw [trim, List.append_assoc, dropWhile_replicate_blank_append]
  cases id with
  | nil => simp
  | cons c cs =>
    have hfront : (c :: cs ++ List.replicate b blank).dropWhile (· == blank) = c :: cs ++ List.replicate b blank :=
      dropWhile_blank_of_head? (by simpa using hhead)
    have hback : (c :: cs).reverse.dropWhile (· == blank) = (c :: cs).reverse :=
      dropWhile_blank_of_head? (by rwa [List.head?_reverse])
    rw [hfront, List.reverse_append, List.reverse_replicate, dropWhile_replicate_blank_append, hback, List.reverse_reverse]

/-- Settles O45: `trim` is one such split, and there is no other. -/
theorem trimRemovesOuterBlanksOnly : Obligations.TrimRemovesOuterBlanksOnly := by
  refine ⟨TypeCodeDispatch.isTrimOf_trim, ?_⟩
  rintro _ id ⟨⟨a, b, rfl⟩, hhead, hlast⟩
  exact (trim_replicate_append_append_replicate hhead hlast a b).symm

/-! ## The bits that no record depends on -/

/-- Frames that agree on a range of bits agree on every range inside it. -/
theorem field_congr {F₁ F₂ : Frame} {a b c d : Nat} (h : field F₁ a b = field F₂ a b) (hac : a ≤ c) (hdb : d ≤ b) (hb : b ≤ 112) :
    field F₁ c d = field F₂ c d := by
  ext i hi
  have hbit := congrArg (·.getLsbD (b - d + i)) h
  simp only [field, BitVec.getLsbD_extractLsb', BitVec.getElem_extractLsb', show b - d + i < b - a by omega,
    show 112 - b + (b - d + i) = 112 - d + i by omega, decide_true, Bool.true_and] at hbit ⊢
  exact hbit

/-- A frame's record depends on its ICAO address, its type code and its identification payload, and for an IDENT record on the
category. -/
theorem recordOf_congr {F₁ F₂ : Frame} (h₁ : field F₁ 8 37 = field F₂ 8 37) (h₂ : field F₁ 40 88 = field F₂ 40 88)
    (hcat : dispatch (field F₁ 32 37) = .ident → field F₁ 37 40 = field F₂ 37 40) : recordOf F₁ = recordOf F₂ := by
  have hicao : field F₁ 8 32 = field F₂ 8 32 := field_congr h₁ (by decide) (by decide) (by decide)
  have htc : field F₁ 32 37 = field F₂ 32 37 := field_congr h₁ (by decide) (by decide) (by decide)
  have haltc : field F₁ 40 52 = field F₂ 40 52 := field_congr h₂ (by decide) (by decide) (by decide)
  have hvraw : field F₁ 53 63 = field F₂ 53 63 := field_congr h₂ (by decide) (by decide) (by decide)
  have hrlat : field F₁ 54 71 = field F₂ 54 71 := field_congr h₂ (by decide) (by decide) (by decide)
  have hrlon : field F₁ 71 88 = field F₂ 71 88 := field_congr h₂ (by decide) (by decide) (by decide)
  rw [htc] at hcat
  simp only [recordOf, slice, hicao, htc, h₂, haltc, hvraw, hrlat, hrlon]
  cases hkind : dispatch (field F₂ 32 37) with
  | ident => rw [hcat hkind]
  | _ => rfl

/-- Settles O46: each request is answered with the record of its frame, and the two records are one. -/
theorem unreadBitsNeverAffectResponse : Obligations.UnreadBitsNeverAffectResponse := by
  intro s₁ s₂ r₁ r₂ rest₁ rest₂ q₁ q₂ F₁ F₂ hruns₁ hruns₂ hF₁ hF₂ h₁ h₂ hcat
  have hrec : recordOf F₁ = recordOf F₂ := recordOf_congr h₁ h₂ fun hkind => by
    obtain ⟨hge, hle⟩ := (TypeCodeDispatch.dispatch_eq_ident _).1 hkind
    exact hcat hge hle
  exact ⟨recordOf F₁, Dispatch.step_of_runs_loadFrame hruns₁ hF₁, hrec ▸ Dispatch.step_of_runs_loadFrame hruns₂ hF₂⟩

end Sys2Proof.Proofs.RecordValues
end
